-- ==== Sys2Proof/Word.lean ====
section
/-! DEFINITION. The words and names of the block: bytes, command words, tick counts, the five lines, one value per
line, the drive mode of a line. -/

namespace Sys2Proof

/-- The unit of transmission, DATA_W = 8 bits (00_scope.md R5). -/
abbrev Byte := BitVec 8

/-- A command word, CMD_W = 10 bits (00_scope.md R5, 30_encoding.md R60). -/
abbrev CmdWord := BitVec 10

/-- A delay count in ticks, CNT_W = 16 bits (00_scope.md R5, 10_state.md R18, R19). -/
abbrev Ticks := BitVec 16

/-- A logic level: `true` is 1, logic high (00_scope.md R8). -/
abbrev Level := Bool

/-- The five output lines (30_encoding.md R62), in index order. -/
inductive Line where
  | sck   -- 0: serial clock
  | ser   -- 1: serial data
  | rck   -- 2: register (latch) clock
  | clrN  -- 3: clear, active low
  | oeN   -- 4: output enable, active low
  deriving DecidableEq, Repr, Inhabited

/-- The drive mode of a line (10_state.md R20). -/
inductive Drive where
  | undriven
  | out
  deriving DecidableEq, Repr, Inhabited

/-- One value for each of the five lines. -/
structure PerLine (α : Type) where
  sck  : α
  ser  : α
  rck  : α
  clrN : α
  oeN  : α
  deriving DecidableEq, Repr

/-- What a device shows on its eight parallel outputs (20_memory.md R42): its pattern, or BLANK. -/
inductive Shown where
  | blank
  | pattern (b : Byte)
  deriving DecidableEq, Repr, Inhabited

end Sys2Proof
end

