-- ==== Sys2Proof/Syntax.lean ====
section
/-! DEFINITION. The four commands (30_encoding.md R61), one constructor per row of the opcode table. Every constructor
carries the word's 8-bit data field: BYTESHIFT transmits it, the other three ignore it (R64; log entry 13). -/

namespace Sys2Proof

inductive Instr where
  /-- CONSTRUCT (40_construct.md R80). -/
  | construct (ignored : Byte)
  /-- BYTESHIFT (41_byteshift.md R90). -/
  | byteShift (data : Byte)
  /-- ENABLE_OUTPUT (42_output_gating.md R100). -/
  | enableOutput (ignored : Byte)
  /-- DISABLE_OUTPUT (42_output_gating.md R101). -/
  | disableOutput (ignored : Byte)
  deriving DecidableEq, Repr

end Sys2Proof
end

