-- ==== Sys2Proof/Decode.lean ====
section
/-! DEFINITION. The command word (30_encoding.md R60, R61): decoder, encoder, and the words the decoder turns away. -/

namespace Sys2Proof

/-- Why a number is not read as a command. -/
inductive DecodeReject where
  /-- The number needs more than CMD_W = 10 bits, so it is no command word (30_encoding.md R60; log entry 12). -/
  | widerThanCommandWord
  deriving DecidableEq, Repr

/-- The field `op`, bits 9:8 (30_encoding.md R60). -/
def opField (w : CmdWord) : BitVec 2 := w.extractLsb' 8 2

/-- The field `data`, bits 7:0 (30_encoding.md R60). -/
def dataField (w : CmdWord) : Byte := w.extractLsb' 0 8

/-- The command a word stands for; every one of the 1024 words decodes (30_encoding.md R61, R64). -/
def decode (w : CmdWord) : Instr :=
  if opField w = 0b00#2 then .construct (dataField w)
  else if opField w = 0b01#2 then .byteShift (dataField w)
  else if opField w = 0b10#2 then .enableOutput (dataField w)
  else .disableOutput (dataField w)

/-- The word of a command: `op` above `data` (30_encoding.md R60, R61). -/
def encode : Instr → CmdWord
  | .construct d     => 0b00#2 ++ d
  | .byteShift d     => 0b01#2 ++ d
  | .enableOutput d  => 0b10#2 ++ d
  | .disableOutput d => 0b11#2 ++ d

/-- The decoder on any number: a command, or a rejection by name. -/
def decodeWord (n : Nat) : Except DecodeReject Instr :=
  if n < 2 ^ 10 then .ok (decode (BitVec.ofNat 10 n)) else .error .widerThanCommandWord

/-- The command read from the `nbits` bits `w`, numbered as spec/opcode_table.json numbers them. -/
def decodeTableWord (nbits w : Nat) : Option Instr :=
  match decodeWord (w % 2 ^ nbits) with
  | .ok i    => some i
  | .error _ => none

end Sys2Proof
end

