-- ==== Sys2Proof/Config.lean ====
section
/-! DEFINITION. What an instance of the block fixes (the parameters of 00_scope.md R5) and the free values: opaque
constants without a body, for what the spec calls `any` (00_scope.md R8). -/

namespace Sys2Proof

/-- LATCH_MODE (00_scope.md R5, 41_byteshift.md R91): when RCK is pulsed during BYTESHIFT. -/
inductive LatchMode where
  | perByte
  | perBit
  deriving DecidableEq, Repr

/-- The instantiation parameters that are not a width: LATCH_MODE, and LINE_BINDING with what 60_exceptions.md R114
says of it. N_DEV is the length of the chain in State. No step changes them. -/
structure Params where
  latchMode  : LatchMode
  /-- LINE_BINDING: the handle of the physical pin of each line. Handles are the machine's names for pins, one for
  each pin; which pin a handle names is open (`Config.pinOf`, log entry 4). -/
  binding    : PerLine Nat
  /-- The handles of the pins to which another chain or another component is bound (60_exceptions.md R114). -/
  taken      : List Nat
  /-- The handles of the pins that cannot be driven as a digital output (60_exceptions.md R114). -/
  notOutputs : List Nat
  deriving DecidableEq, Repr

/-- The parameters of the machine of State.reset: LATCH_MODE at its default PER_BYTE (41_byteshift.md R91); the handles
0 to 4 for the pins of the five lines, which pins those are being open (`Config.pinOf`); DESIGN CHOICE (log entry 4):
the premises of 60_exceptions.md R114 hold, none of the pins is taken and all are drivable. -/
def Params.default : Params where
  latchMode  := .perByte
  binding    := ⟨0, 1, 2, 3, 4⟩
  taken      := []
  notOutputs := []

/-- N_DEV less one: how many devices follow device 0 in the chain of State.reset (00_scope.md R5: OPEN, N_DEV >= 1; log
entry 4). -/
opaque Config.furtherDevices : Nat

/-- LINE_BINDING (00_scope.md R5: OPEN, five distinct pins): the physical pin that a handle names, one handle for each
pin and one pin for each handle. Which pin it is no rule of the machine reads (log entry 4). -/
opaque Config.pinOf : Equiv.Perm Nat

/-- The level of cfg_settle before the host sets it (00_scope.md R5: OPEN; log entry 2). -/
opaque Config.cfgSettle : Ticks

/-- The level of cfg_delay before the host sets it (00_scope.md R5: OPEN; log entry 2). -/
opaque Config.cfgDelay : Ticks

/-- Free value: the n-th unspecified byte (20_memory.md R35, 10_state.md R24; log entry 6). -/
opaque Config.freeByte : Nat → Byte

/-- Free value: an unspecified level of a line (10_state.md R22, R24; log entries 6 and 10). -/
opaque Config.freeLevel : Nat → Line → Level

/-- Free value: an unspecified drive mode of a line at power-on (10_state.md R24; log entry 9). -/
opaque Config.freeDrive : Nat → Line → Drive

/-- Free value: an unspecified 3-bit register at power-on (10_state.md R24; log entry 9). -/
opaque Config.freeIndex : Nat → BitVec 3

/-- Free value: an unspecified delay register at power-on (10_state.md R24; log entry 9). -/
opaque Config.freeTicks : Nat → Ticks

/-- Free value: what device k shows while the level of OE_n is unspecified (20_memory.md R42; log entry 14). -/
opaque Config.freeShown : Nat → Nat → Shown

/-- TICK (00_scope.md R5) is OPEN and positive: one more than this constant, in whatever unit of time (log entry 17). -/
opaque Config.tickLessOne : Nat

/-- TICK, the duration of one tick; no rule of the machine reads it. -/
def Config.tick : Nat := Config.tickLessOne + 1

end Sys2Proof
end

