-- ==== Sys2Proof/Machine/State.lean ====
section
/-! DEFINITION. The state of the machine as plain data: every piece of 10_state.md R10, the parameters and inputs of
00_scope.md R5, and the model's own two fields (the host's coming moves, the counter of free values). -/

namespace Sys2Proof.Machine

/-- SEQ, the top-level state of the controller (10_state.md R11). -/
inductive Seq where
  | unconstructed
  | init
  | idle
  | shift
  deriving DecidableEq, Repr

/-- The micro-steps of CONSTRUCT (40_construct.md R80). -/
inductive InitStep where
  | i0 | i1 | i2 | i3 | i4 | i5 | i6 | i7
  deriving DecidableEq, Repr

/-- The micro-steps of one bit cycle of BYTESHIFT (41_byteshift.md R90). -/
inductive ShiftStep where
  | s1 | s2 | s3 | s4 | s5a | s5b | s6 | s7
  deriving DecidableEq, Repr

/-- One attached 74HC595-class device (10_state.md R25): shift stage SH and latch stage LT. -/
structure Device where
  sh : Byte
  lt : Byte
  deriving DecidableEq, Repr

/-- An event of TRACE (20_memory.md R46). -/
inductive Event where
  /-- C(l): line l became an output. -/
  | config (l : Line)
  /-- W(l, v): LineWrite of level v to line l. -/
  | write (l : Line) (v : Level)
  /-- D(n): a wait of n ticks. -/
  | wait (n : Ticks)
  deriving DecidableEq, Repr

/-- What can happen outside the controller (00_scope.md R6, 60_exceptions.md R119; log entries 1, 2, 8, 9). -/
inductive HostMove where
  /-- The host keeps its contract: it lets the block finish, and presents the word when BUSY = 0 (R31, R67). -/
  | issueWhenReady (w : CmdWord)
  /-- The word is presented in the very next step, whatever BUSY is (R65, R112). -/
  | issue (w : CmdWord)
  /-- The host does nothing for one step. -/
  | pass
  /-- The levels on the inputs cfg_settle and cfg_delay change (R32, R147). -/
  | setCfg (settle delay : Ticks)
  /-- Power is removed and restored: a new run starts (R117, R119, R130, R132). -/
  | powerCycle
  /-- An agent other than this controller writes a line (R114, R142). -/
  | foreignWrite (l : Line) (v : Level)
  /-- Another chain or component is bound to the pin of a line (R114). The move ends its run and leaves no mark on the
  parameters: DESIGN CHOICE, log entry 21. -/
  | foreignBind (l : Line)
  deriving DecidableEq, Repr

/-- The model faults of 60_exceptions.md R111. All are safe: the run stops where the spec gives it no meaning. -/
inductive Fault where
  /-- F_CMD_WHILE_BUSY, code 1: raised by every command issued while BUSY = 1 (R112). Safe. -/
  | cmdWhileBusy
  /-- F_USE_BEFORE_CONSTRUCT, code 2: raised by BYTESHIFT, ENABLE_OUTPUT and DISABLE_OUTPUT issued while SEQ is
  UNCONSTRUCTED (R113). Safe. -/
  | useBeforeConstruct
  /-- F_LINE_BINDING, code 3: raised by a step whose line binding breaks the premises of R114, and when another chain
  or component takes the pin of a line. Safe. -/
  | lineBinding
  /-- F_FOREIGN_WRITE, code 4: raised when an agent other than the controller writes a line (R114). Safe. -/
  | foreignWrite
  deriving DecidableEq, Repr

/-- Why an instruction would have no meaning. -/
inductive Refusal where
  /-- Raised by an arm of `exec` that has no meaning yet; no arm does. Safe. -/
  | notModelled (mnemonic : String)
  deriving DecidableEq, Repr

/-- The complete state. -/
structure State where
  /-- SEQ (R11). -/
  seq         : Seq
  /-- STEP (R12), the code of a micro-step. -/
  stepReg     : BitVec 3
  /-- BITIDX (R15). -/
  bitIdx      : BitVec 3
  /-- DREG (R14). -/
  dreg        : Byte
  /-- CFG_SETTLE (R18). -/
  cfgSettle   : Ticks
  /-- CFG_DELAY (R19). -/
  cfgDelay    : Ticks
  /-- DIR (R20). -/
  dir         : PerLine Drive
  /-- LVL (R21). -/
  lvl         : PerLine Level
  /-- The attached chain, device 0 first (R25, R37); its length is N_DEV, at least 1 (`Sound`). -/
  chain       : List Device
  /-- TRACE (R26, R46), oldest event first. -/
  trace       : List Event
  /-- FAULT (R26, R111). -/
  fault       : Option Fault
  /-- The instantiation parameters (00_scope.md R5). -/
  params      : Params
  /-- The input cfg_settle (R32, R65). -/
  cfgSettleIn : Ticks
  /-- The input cfg_delay (R32, R65). -/
  cfgDelayIn  : Ticks
  /-- The model's own: what the host and the foreign agents will do, next move first (log entry 1). -/
  host        : List HostMove
  /-- The model's own: how many free values have been drawn (log entry 6). -/
  free        : Nat
  deriving DecidableEq, Repr

/-- The machine at power-on (10_state.md R24, 70_reset_and_hazards.md R130): SEQ, TRACE and FAULT as the spec says,
every register the spec leaves any at the value of log entry 5; the OPEN parameters and inputs are constants of Config
(log entries 2 and 4). -/
def State.reset : State where
  seq         := .unconstructed
  stepReg     := 0#3
  bitIdx      := 0#3
  dreg        := 0x00#8
  cfgSettle   := 0#16
  cfgDelay    := 0#16
  dir         := ⟨.undriven, .undriven, .undriven, .undriven, .undriven⟩
  lvl         := ⟨false, false, false, false, false⟩
  chain       := List.replicate (Config.furtherDevices + 1) ⟨0x00#8, 0x00#8⟩
  trace       := []
  fault       := none
  params      := Params.default
  cfgSettleIn := Config.cfgSettle
  cfgDelayIn  := Config.cfgDelay
  host        := []
  free        := 0

end Sys2Proof.Machine
end

