-- ==== Sys2Proof/Machine/Flags.lean ====
section
/-! DEFINITION. The derived flags BUSY and CONSTRUCTED (10_state.md R16, R17); the block has no others. -/

namespace Sys2Proof.Machine

/-- BUSY (10_state.md R16): an operation is in progress. The block's only status output. -/
def State.busy (s : State) : Bool :=
  match s.seq with
  | .init | .shift => true
  | .unconstructed | .idle => false

/-- CONSTRUCTED (10_state.md R17). Not an output. -/
def State.constructed (s : State) : Bool :=
  match s.seq with
  | .idle | .shift => true
  | .unconstructed | .init => false

end Sys2Proof.Machine
end

