-- ==== Sys2Proof/Machine/Lines.lean ====
section
/-! DEFINITION. The line space (20_memory.md R30, R49): the value of one line, the numbering, the PIN vector, and the
binding premises of 60_exceptions.md R114. -/

namespace Sys2Proof

/-- The five lines in index order (30_encoding.md R62). -/
def Line.all : List Line := [.sck, .ser, .rck, .clrN, .oeN]

/-- The index of a line (30_encoding.md R62). -/
def Line.index : Line → Nat
  | .sck => 0
  | .ser => 1
  | .rck => 2
  | .clrN => 3
  | .oeN => 4

/-- The value of one line. -/
def PerLine.get {α : Type} (p : PerLine α) : Line → α
  | .sck => p.sck
  | .ser => p.ser
  | .rck => p.rck
  | .clrN => p.clrN
  | .oeN => p.oeN

/-- The same values but for one line. -/
def PerLine.set {α : Type} (p : PerLine α) (l : Line) (v : α) : PerLine α :=
  match l with
  | .sck => { p with sck := v }
  | .ser => { p with ser := v }
  | .rck => { p with rck := v }
  | .clrN => { p with clrN := v }
  | .oeN => { p with oeN := v }

/-- One value per line from a function of the line. -/
def PerLine.of {α : Type} (f : Line → α) : PerLine α :=
  ⟨f .sck, f .ser, f .rck, f .clrN, f .oeN⟩

/-- The 5-bit vector of five levels, OE_n, CLR_n, RCK, SER, SCK from bit 4 down to bit 0 (10_state.md R22). -/
def PerLine.bits (p : PerLine Level) : BitVec 5 :=
  BitVec.ofBool p.oeN ++ BitVec.ofBool p.clrN ++ BitVec.ofBool p.rck ++ BitVec.ofBool p.ser ++ BitVec.ofBool p.sck

/-- The handles of the pins of the five lines, in index order. -/
def Params.pins (p : Params) : List Nat := Line.all.map p.binding.get

/-- The physical pin of a line (LINE_BINDING, 00_scope.md R5). -/
def Params.physicalPin (p : Params) (l : Line) : Nat := Config.pinOf (p.binding.get l)

/-- The line-binding premises (60_exceptions.md R114): five distinct pins, none of them bound to anything else, each
of them drivable as a digital output. Handles stand for pins one to one (`Config.pinOf`), so it compares handles. -/
def Params.bindingOk (p : Params) : Bool :=
  decide p.pins.Nodup && p.pins.all (fun x => !p.taken.contains x && !p.notOutputs.contains x)

end Sys2Proof
end

