-- ==== Sys2Proof/Machine/Operands.lean ====
section
/-! DEFINITION. The one operand form (30_encoding.md R63): a bit of the data register; and the codes of the micro-steps
in STEP (10_state.md R12). -/

namespace Sys2Proof.Machine

/-- `DREG[i]`, the level driven on SER for bit index i (30_encoding.md R63). -/
def dataBit (d : Byte) (i : BitVec 3) : Level := d.getLsbD i.toNat

/-- The code of a micro-step of CONSTRUCT (10_state.md R12, 30_encoding.md R69). -/
def InitStep.code : InitStep → BitVec 3
  | .i0 => 0 | .i1 => 1 | .i2 => 2 | .i3 => 3 | .i4 => 4 | .i5 => 5 | .i6 => 6 | .i7 => 7

/-- The micro-step of CONSTRUCT that STEP names (10_state.md R12). -/
def initStepOf (c : BitVec 3) : InitStep :=
  match c.toNat with
  | 0 => .i0
  | 1 => .i1
  | 2 => .i2
  | 3 => .i3
  | 4 => .i4
  | 5 => .i5
  | 6 => .i6
  | _ => .i7

/-- The code of a micro-step of BYTESHIFT (10_state.md R12, 30_encoding.md R69). -/
def ShiftStep.code : ShiftStep → BitVec 3
  | .s1 => 0 | .s2 => 1 | .s3 => 2 | .s4 => 3 | .s5a => 4 | .s5b => 5 | .s6 => 6 | .s7 => 7

/-- The micro-step of BYTESHIFT that STEP names (10_state.md R12). -/
def shiftStepOf (c : BitVec 3) : ShiftStep :=
  match c.toNat with
  | 0 => .s1
  | 1 => .s2
  | 2 => .s3
  | 3 => .s4
  | 4 => .s5a
  | 5 => .s5b
  | 6 => .s6
  | _ => .s7

end Sys2Proof.Machine
end

