-- ==== Sys2Proof/Machine/Ops.lean ====
section
/-! DEFINITION. The shared operations: single-field updates of State, the chain's reactions, the line primitives
LineConfig and LineWrite, Wait, PIN and OUT, and the raise of a model fault. -/

namespace Sys2Proof.Machine

/-! ### Single-field updates -/

/-- Append one event to TRACE (20_memory.md R46). -/
def State.emit (s : State) (e : Event) : State := { s with trace := s.trace ++ [e] }

/-- Write the level register of one line (10_state.md R21). -/
def State.setLevel (s : State) (l : Line) (v : Level) : State := { s with lvl := s.lvl.set l v }

/-- Put one line in output drive mode (10_state.md R20). -/
def State.setOut (s : State) (l : Line) : State := { s with dir := s.dir.set l .out }

/-- Give the attached devices new contents (10_state.md R25). -/
def State.setChain (s : State) (c : List Device) : State := { s with chain := c }

/-- Advance the counter of free values by `n` (log entry 6). -/
def State.drew (s : State) (n : Nat) : State := { s with free := s.free + n }

/-- `STEP <- c` (10_state.md R12). -/
def State.setStep (s : State) (c : BitVec 3) : State := { s with stepReg := c }

/-- `SEQ <- q` (10_state.md R11). -/
def State.setSeq (s : State) (q : Seq) : State := { s with seq := q }

/-- `BITIDX <- i` (10_state.md R15). -/
def State.setBitIdx (s : State) (i : BitVec 3) : State := { s with bitIdx := i }

/-- The host's moves that are still to come (log entry 1). -/
def State.setHost (s : State) (h : List HostMove) : State := { s with host := h }

/-! ### Faults -/

/-- The code of a fault (60_exceptions.md R111). -/
def Fault.code : Fault → Nat
  | .cmdWhileBusy => 1
  | .useBeforeConstruct => 2
  | .lineBinding => 3
  | .foreignWrite => 4

/-- `raise Fault(F)` (60_exceptions.md R111): FAULT becomes F if it was none, and no other state changes. Every later
step then stops with that fault (`runStep`; log entry 7). -/
def raise (f : Fault) (s : State) : Host.Outcome State Fault Refusal :=
  .next { s with fault := some (s.fault.getD f) }

/-! ### The attached chain -/

/-- ChainClear (20_memory.md R39): every shift stage is zero; the latch stages stay. -/
def chainClear (c : List Device) : List Device := c.map fun d => { d with sh := 0x00#8 }

/-- One device's part of a shift (20_memory.md R40): `b` enters at cell 7, every cell moves one place towards cell 0. -/
def shiftCell (b : Level) (x : Byte) : Byte := BitVec.cons b (x.extractLsb' 1 7)

/-- ChainShift (20_memory.md R40): each shift stage moves one cell towards bit 0 and takes `carry` in at bit 7; the
carry of the next device is the last cell held before the edge. -/
def chainShift (carry : Level) : List Device → List Device
  | [] => []
  | d :: ds => { d with sh := shiftCell carry d.sh } :: chainShift (d.sh.getLsbD 0) ds

/-- ChainLatch (20_memory.md R41): every shift stage is copied to its latch stage. -/
def chainLatch (c : List Device) : List Device := c.map fun d => { d with lt := d.sh }

/-- A rising edge on line l (20_memory.md R38). -/
def rising (old new : PerLine Level) (l : Line) : Bool := !old.get l && new.get l

/-- The first half of ChainReact (20_memory.md R38): clear while CLR_n is low, else shift on a rising SCK. -/
def clearOrShift (old new : PerLine Level) (l : Line) (c : List Device) : List Device :=
  if new.clrN = false then chainClear c
  else if l = .sck ∧ rising old new .sck then chainShift new.ser c
  else c

/-- ChainReact(old, new, l) (20_memory.md R38): clear or shift, then latch on a rising RCK. -/
def chainReact (old new : PerLine Level) (l : Line) (c : List Device) : List Device :=
  if l = .rck ∧ rising old new .rck then chainLatch (clearOrShift old new l c) else clearOrShift old new l c

/-- A chain of the same length whose shift and latch stages are free values, the draws from the n-th on
(20_memory.md R35). -/
def freeChain (n : Nat) : List Device → List Device
  | [] => []
  | _ :: ds => { sh := Config.freeByte n, lt := Config.freeByte (n + 1) } :: freeChain (n + 2) ds

/-! ### The wires -/

/-- All five lines are outputs. -/
def State.allOut (s : State) : Bool := s.dir == PerLine.of fun _ => Drive.out

/-- PIN (10_state.md R22): the level register where the line is an output, else a free value, the n-th draw. -/
def State.pinsAt (s : State) (n : Nat) : PerLine Level :=
  PerLine.of fun l => if s.dir.get l = .out then s.lvl.get l else Config.freeLevel n l

/-- PIN as the chain sees it now. -/
def State.pins (s : State) : PerLine Level := s.pinsAt s.free

/-- OUT[k] for each device (20_memory.md R42): the latch stage while OE_n is low, BLANK while it is high, a free value
while OE_n is not an output. -/
def State.outputs (s : State) : List Shown :=
  if s.dir.oeN = .out then
    s.chain.map fun d => if s.lvl.oeN then .blank else .pattern d.lt
  else (List.range s.chain.length).map (Config.freeShown s.free)

/-! ### The line primitives and the wait -/

/-- LineConfig(l) (20_memory.md R35): no effect on an output; an undriven line becomes an output, and the contents of
the whole chain become free values. -/
def lineConfig (l : Line) (s : State) : State :=
  if s.dir.get l = .out then s
  else (((s.setOut l).setChain (freeChain s.free s.chain)).drew (2 * s.chain.length)).emit (.config l)

/-- LineWrite(l, v) (20_memory.md R36): set the level register and let the chain react. The two PIN vectors are drawn
apart where a line is undriven, which no run of the block does (R36's precondition; log entry 10). -/
def lineWrite (l : Line) (v : Level) (s : State) : State :=
  let old := s.pinsAt s.free
  let driven := s.setLevel l v
  let new := driven.pinsAt (s.free + 1)
  ((driven.setChain (chainReact old new l s.chain)).drew (if s.allOut then 0 else 2)).emit (.write l v)

/-- What a step leaves of the free levels: while a line is not an output its wire and, for OE_n, what the devices show are
unspecified anew after every step, whatever the step did (10_state.md R22, R24, 20_memory.md R42; log entry 10). -/
def redraw (s : State) : State := s.drew (if s.allOut then 0 else 1)

/-- Wait(n) (60_exceptions.md R122): no state changes but TRACE. -/
def waitTicks (n : Ticks) (s : State) : State := s.emit (.wait n)

end Sys2Proof.Machine
end

