-- ==== Sys2Proof/Machine/Issue.lean ====
section
/-! DEFINITION. The two checks every issued command passes (30_encoding.md R66), in the order of 60_exceptions.md R115. -/

namespace Sys2Proof.Machine

/-- Accept a command that is legal whenever BUSY = 0 (CONSTRUCT): its effect, or F_CMD_WHILE_BUSY
(60_exceptions.md R112). -/
def whenReady (effect : State → State) (s : State) : Host.Outcome State Fault Refusal :=
  if s.busy then raise .cmdWhileBusy s else .next (effect s)

/-- Accept a command that also needs a constructed block: first the busy check, then the check of SEQ
(60_exceptions.md R113, R115). -/
def whenConstructed (effect : State → State) (s : State) : Host.Outcome State Fault Refusal :=
  if s.busy then raise .cmdWhileBusy s
  else if s.seq = .unconstructed then raise .useBeforeConstruct s
  else .next (effect s)

end Sys2Proof.Machine
end

