-- ==== Sys2Proof/Machine/ByteShift.lean ====
section
/-! DEFINITION. BYTESHIFT (41_byteshift.md R90): acceptance, LatchNow, and the eight micro-steps of a bit cycle. -/

namespace Sys2Proof.Machine

/-- Acceptance of BYTESHIFT (30_encoding.md R66): DREG <- data, BITIDX <- 0, start at S1. -/
def beginByteShift (data : Byte) (s : State) : State :=
  { s with dreg := data, bitIdx := 0#3, seq := .shift, stepReg := ShiftStep.code .s1 }

/-- BYTESHIFT data. -/
def execByteShift (data : Byte) (s : State) : Host.Outcome State Fault Refusal :=
  whenConstructed (beginByteShift data) s

/-- LatchNow(i) (41_byteshift.md R91): RCK is raised in every bit cycle, or only in that of bit 7. -/
def latchNow (m : LatchMode) (i : BitVec 3) : Bool := m == .perBit || i == 7#3

/-- The advance of S7 (10_state.md R13): the operation ends after bit 7, else the next bit cycle starts. -/
def nextBit (s : State) : State :=
  if s.bitIdx = 7#3 then s.setSeq .idle
  else (s.setBitIdx (s.bitIdx + 1#3)).setStep (ShiftStep.code .s1)

/-- One micro-step of BYTESHIFT (10_state.md R13, 41_byteshift.md R90). -/
def shiftMicroStep (m : ShiftStep) (s : State) : State :=
  match m with
  | .s1 => (lineWrite .ser (dataBit s.dreg s.bitIdx) s).setStep (ShiftStep.code .s2)
  | .s2 => (waitTicks s.cfgDelay s).setStep (ShiftStep.code .s3)
  | .s3 => (lineWrite .sck true s).setStep (ShiftStep.code .s4)
  | .s4 => (waitTicks s.cfgDelay s).setStep (ShiftStep.code .s5a)
  | .s5a => (lineWrite .sck false s).setStep (ShiftStep.code .s5b)
  | .s5b => (if latchNow s.params.latchMode s.bitIdx then lineWrite .rck true s else s).setStep (ShiftStep.code .s6)
  | .s6 => (waitTicks s.cfgDelay s).setStep (ShiftStep.code .s7)
  | .s7 => nextBit (lineWrite .rck false s)

end Sys2Proof.Machine
end

