-- ==== Sys2Proof/Machine/Construct.lean ====
section
/-! DEFINITION. CONSTRUCT (40_construct.md R80): acceptance, and the eight micro-steps of the controller. -/

namespace Sys2Proof.Machine

/-- Acceptance of CONSTRUCT (30_encoding.md R66): sample both configuration inputs and start at I0. -/
def beginConstruct (s : State) : State :=
  { s with cfgSettle := s.cfgSettleIn, cfgDelay := s.cfgDelayIn, seq := .init, stepReg := InitStep.code .i0 }

/-- CONSTRUCT; its data field is ignored (30_encoding.md R64, 40_construct.md R81 (g)). -/
def execConstruct (_ignored : Byte) (s : State) : Host.Outcome State Fault Refusal :=
  whenReady beginConstruct s

/-- Micro-step I0: LineConfig of all five lines in index order (10_state.md R13). -/
def configAll (s : State) : State := Line.all.foldl (fun t l => lineConfig l t) s

/-- One micro-step of CONSTRUCT (10_state.md R13, 40_construct.md R80). -/
def initMicroStep (m : InitStep) (s : State) : State :=
  match m with
  | .i0 => (configAll s).setStep (InitStep.code .i1)
  | .i1 => (lineWrite .oeN true s).setStep (InitStep.code .i2)
  | .i2 => (lineWrite .clrN false s).setStep (InitStep.code .i3)
  | .i3 => (lineWrite .sck false s).setStep (InitStep.code .i4)
  | .i4 => (lineWrite .rck false s).setStep (InitStep.code .i5)
  | .i5 => (lineWrite .ser false s).setStep (InitStep.code .i6)
  | .i6 => (waitTicks s.cfgSettle s).setStep (InitStep.code .i7)
  | .i7 => (lineWrite .clrN true s).setSeq .idle

end Sys2Proof.Machine
end

