-- ==== Sys2Proof/Machine/Controller.lean ====
section
/-! DEFINITION. ControllerStep (10_state.md R13): the micro-step that the sequencer position names. -/

namespace Sys2Proof.Machine

/-- ControllerStep: one micro-step while BUSY = 1; while BUSY = 0 the controller has no step. -/
def controllerStep (s : State) : State :=
  match s.seq with
  | .init => initMicroStep (initStepOf s.stepReg) s
  | .shift => shiftMicroStep (shiftStepOf s.stepReg) s
  | .unconstructed | .idle => s

end Sys2Proof.Machine
end

