-- ==== Sys2Proof/Machine/OutputGating.lean ====
section
/-! DEFINITION. ENABLE_OUTPUT and DISABLE_OUTPUT (42_output_gating.md R100, R101): one level set each, done in the step
that accepts the command. -/

namespace Sys2Proof.Machine

/-- ENABLE_OUTPUT: LineWrite(OE_n, 0); its data field is ignored (30_encoding.md R64). -/
def execEnableOutput (_ignored : Byte) (s : State) : Host.Outcome State Fault Refusal :=
  whenConstructed (lineWrite .oeN false) s

/-- DISABLE_OUTPUT: LineWrite(OE_n, 1); its data field is ignored (30_encoding.md R64). -/
def execDisableOutput (_ignored : Byte) (s : State) : Host.Outcome State Fault Refusal :=
  whenConstructed (lineWrite .oeN true) s

end Sys2Proof.Machine
end

