-- ==== Sys2Proof/Machine/Dispatch.lean ====
section
/-! DEFINITION. Issue(c) of 30_encoding.md R66, one arm per command. -/

namespace Sys2Proof.Machine

def exec (i : Instr) (s : State) : Host.Outcome State Fault Refusal :=
  match i with
  | .construct d => Sys2Proof.Machine.execConstruct d s
  | .byteShift d => Sys2Proof.Machine.execByteShift d s
  | .enableOutput d => Sys2Proof.Machine.execEnableOutput d s
  | .disableOutput d => Sys2Proof.Machine.execDisableOutput d s

end Sys2Proof.Machine
end

