-- ==== Sys2Proof/Machine/Turn.lean ====
section
/-! DEFINITION. One step of the whole machine (00_scope.md R7): the host issues a command, or the controller performs a
micro-step; and the moves of the other agents (log entries 1, 3, 7, 8, 9). -/

namespace Sys2Proof.Machine

/-- Power is removed and restored (10_state.md R24, 70_reset_and_hazards.md R130): SEQ is UNCONSTRUCTED, TRACE is
empty, FAULT is none, every other piece of R10 is a free value. The parameters, the inputs and the host stay. -/
def powerOn (s : State) : State :=
  { s with
    seq := .unconstructed
    stepReg := Config.freeIndex s.free
    bitIdx := Config.freeIndex (s.free + 1)
    dreg := Config.freeByte s.free
    cfgSettle := Config.freeTicks s.free
    cfgDelay := Config.freeTicks (s.free + 1)
    dir := PerLine.of (Config.freeDrive s.free)
    lvl := PerLine.of (Config.freeLevel (s.free + 1))
    chain := freeChain (s.free + 1) s.chain
    trace := []
    fault := none
    free := s.free + 2 + 2 * s.chain.length }

/-- The controller's turn (10_state.md R13): its micro-step while BUSY = 1; otherwise nothing moves until the host
issues a command (log entry 3). -/
def controllerTurn (s : State) : Host.Outcome State Fault Refusal := .next (controllerStep s)

/-- The step that the next host move names, or the controller's. A foreign binding breaks the run in which it happens
and is gone when power returns; one that lasts is a move again in the next run (DESIGN CHOICE, log entry 21). -/
def hostOrController (s : State) : Host.Outcome State Fault Refusal :=
  match s.host with
  | [] => controllerTurn s
  | .issueWhenReady w :: rest => if s.busy then controllerTurn s else exec (decode w) (s.setHost rest)
  | .issue w :: rest => exec (decode w) (s.setHost rest)
  | .pass :: rest => controllerTurn (s.setHost rest)
  | .setCfg settle delay :: rest => .next { s with cfgSettleIn := settle, cfgDelayIn := delay, host := rest }
  | .foreignWrite _ _ :: rest => raise .foreignWrite (s.setHost rest)
  | .foreignBind _ :: rest => raise .lineBinding (s.setHost rest)
  | .powerCycle :: rest => .next (powerOn (s.setHost rest))

/-- A step within a run: a recorded fault is terminal (60_exceptions.md R111, R117), a broken line binding is a fault
(R114), and otherwise the host or the controller moves. -/
def runStep (s : State) : Host.Outcome State Fault Refusal :=
  match s.fault with
  | some f => .fault f
  | none => if s.params.bindingOk then hostOrController s else raise .lineBinding s

/-- The move of a step: the return of power starts a new run even after a fault (60_exceptions.md R117); all else is a
step within the run. -/
def move (s : State) : Host.Outcome State Fault Refusal :=
  match s.host with
  | .powerCycle :: rest => .next (powerOn (s.setHost rest))
  | _ => runStep s

/-- The wires of undriven lines are drawn anew in a next state (log entry 10). -/
def redrawNext (o : Host.Outcome State Fault Refusal) : Host.Outcome State Fault Refusal :=
  match o with
  | .next t => .next (redraw t)
  | .fault f => .fault f
  | .refused r => .refused r

/-- One step: its move, and after it the undriven wires hold whatever they hold. -/
def turn (s : State) : Host.Outcome State Fault Refusal := redrawNext (move s)

/-- The state in which the very next move of the host is to present the 10-bit word `w` (log entry 1); a number that
is no command word cannot be presented, and the state stays as it is (log entry 12). -/
def presentWord (s : State) (w : Nat) : State :=
  if w < 2 ^ 10 then s.setHost (.issue (BitVec.ofNat 10 w) :: s.host) else s

end Sys2Proof.Machine
end

