-- ==== Sys2Proof/Machine/Step.lean ====
section
/-! DEFINITION. The step of the machine, and the state in which it runs a given command next. -/

namespace Sys2Proof.Machine

/-- One step (00_scope.md R7). -/
def step (s : State) : Host.Outcome State Fault Refusal := turn s

/-- `s` with the command of the `nbits` bits `w` presented next, so that `step` issues exactly it. -/
def State.withFetchWord (s : State) (nbits w : Nat) : State := presentWord s (w % 2 ^ nbits)

end Sys2Proof.Machine
end

