-- ==== Sys2Proof/Machine/Observe.lean ====
section
/-! DEFINITION. What an observer sees (20_memory.md R46): the observable projection of TRACE, and the counts of
30_encoding.md R70 and 70_reset_and_hazards.md R151, R152. The machine reads none of it. -/

namespace Sys2Proof.Machine

/-- An observable event on the lines (20_memory.md R46). -/
inductive Observed where
  /-- The PIN vector after a change of level. -/
  | pin (v : BitVec 5)
  /-- A wait of at least one tick. -/
  | wait (n : Ticks)
  deriving DecidableEq, Repr

/-- A change of level, not a wait. -/
def Observed.isPin : Observed → Bool
  | .pin _ => true
  | .wait _ => false

/-- How often SER changes while byte `v` is sent, from level `start` (30_encoding.md R70). -/
def serChanges (start : Level) (v : Byte) : Nat :=
  (List.range 8).countP fun i => v.getLsbD i != (if i = 0 then start else v.getLsbD (i - 1))

/-- The observable behaviour: the projection of a trace, from the levels the wires had before it (20_memory.md R46). -/
def observe (levels : PerLine Level) : List Event → List Observed
  | [] => []
  | .config _ :: es => observe levels es
  | .write l v :: es =>
    if levels.get l = v then observe levels es
    else .pin (levels.set l v).bits :: observe (levels.set l v) es
  | .wait n :: es => if n = 0#16 then observe levels es else .wait n :: observe levels es

/-- How many rising edges of line l a trace holds, from the levels before it (20_memory.md R38). -/
def countRises (l : Line) (levels : PerLine Level) : List Event → Nat
  | [] => 0
  | .write m v :: es =>
    (if m = l ∧ levels.get l = false ∧ v = true then 1 else 0) + countRises l (levels.set m v) es
  | .config _ :: es => countRises l levels es
  | .wait _ :: es => countRises l levels es

/-- How many waits a trace holds (30_encoding.md R70). -/
def countWaits : List Event → Nat
  | [] => 0
  | .wait _ :: es => countWaits es + 1
  | .config _ :: es => countWaits es
  | .write _ _ :: es => countWaits es

/-- How many line writes a trace holds (30_encoding.md R70). -/
def countWrites : List Event → Nat
  | [] => 0
  | .write _ _ :: es => countWrites es + 1
  | .config _ :: es => countWrites es
  | .wait _ :: es => countWrites es

/-- The waits of a trace in ticks (70_reset_and_hazards.md R151), a lower bound on the time it takes. -/
def totalTicks : List Event → Nat
  | [] => 0
  | .wait n :: es => n.toNat + totalTicks es
  | .config _ :: es => totalTicks es
  | .write _ _ :: es => totalTicks es

/-- The least time a trace takes, in the unit of TICK (00_scope.md R5, 60_exceptions.md R122). -/
def leastTime (es : List Event) : Nat := totalTicks es * Config.tick

end Sys2Proof.Machine
end

