-- ==== Sys2Proof/Safety.lean ====
section
/-! DEFINITION. The terms in which claims are stated: runs with their premises, the invariant of the sequencer
positions, and the listings of 30_encoding.md R69 as data. -/

namespace Sys2Proof.Machine

/-- The premises on the machine that no step changes: the line binding is sound (60_exceptions.md R114) and N_DEV >= 1
(00_scope.md R5). -/
abbrev Wired (s : State) : Prop := s.params.bindingOk = true ∧ s.chain ≠ []

/-- The premises of a run: no fault is recorded (60_exceptions.md R111) and the machine is wired as the spec says. -/
abbrev Sound (s : State) : Prop := s.fault = none ∧ Wired s

/-- The next move is not the return of power. -/
def keepsPower (s : State) : Bool :=
  match s.host with
  | .powerCycle :: _ => false
  | _ => true

/-- All moves to come are commands issued under the host contract (60_exceptions.md R119). -/
def patient (h : List HostMove) : Bool :=
  h.all fun m =>
    match m with
    | .issueWhenReady _ => true
    | _ => false

/-- The command that the next step of a sound state issues, if it issues one (00_scope.md R7, 30_encoding.md R66). -/
def issued (s : State) : Option Instr :=
  match s.host with
  | .issueWhenReady w :: _ => if s.busy then none else some (decode w)
  | .issue w :: _ => some (decode w)
  | _ => none

/-- The next step is a micro-step of the controller (10_state.md R13) when the state is sound and busy. -/
def controllerMoves (s : State) : Bool :=
  match s.host with
  | [] | .issueWhenReady _ :: _ | .pass :: _ => s.busy
  | _ => false

/-- Two outcomes of a step agree up to a relation on next states. -/
def agree (r : State → State → Prop) (a b : Host.Outcome State Fault Refusal) : Prop :=
  match a, b with
  | .next s, .next t => r s t
  | .fault f, .fault g => f = g
  | .refused f, .refused g => f = g
  | _, _ => False

/-- Equal but for the two configuration inputs. -/
def sameButInputs (s t : State) : Prop :=
  t = { s with cfgSettleIn := t.cfgSettleIn, cfgDelayIn := t.cfgDelayIn }

/-- Equal but for the levels of the lines and the contents of the chain. -/
def sameButWires (s t : State) : Prop := t = { s with lvl := t.lvl, chain := t.chain }

/-- An event without the level written to SER (70_reset_and_hazards.md R152). -/
def eraseSer : Event → Event
  | .write .ser _ => .write .ser false
  | e => e

/-- The machine right after power-on, whatever it holds (70_reset_and_hazards.md R130). -/
abbrev PoweredOn (s : State) : Prop := s.seq = .unconstructed ∧ s.fault = none ∧ s.trace = []

/-- The host has issued the last command of the run (00_scope.md R7): none is left ahead of the next return of power,
which starts another run (70_reset_and_hazards.md R132; log entry 20). -/
def noCommandLeft : List HostMove → Bool
  | [] | .powerCycle :: _ => true
  | .issueWhenReady _ :: _ | .issue _ :: _ => false
  | .pass :: h | .setCfg _ _ :: h | .foreignWrite _ _ :: h | .foreignBind _ :: h => noCommandLeft h

/-- A completed run (00_scope.md R7): the host has issued its last command, the controller is not busy, no fault is
recorded. Moves that are no command may be left (log entry 20). -/
abbrev RunEnded (s : State) : Prop := noCommandLeft s.host = true ∧ s.busy = false ∧ s.fault = none

/-- A move that ends no run and issues no command: the host does nothing, or sets the inputs (20_memory.md R32). -/
def quietMove : HostMove → Bool
  | .pass | .setCfg _ _ => true
  | .issueWhenReady _ | .issue _ | .powerCycle | .foreignWrite _ _ | .foreignBind _ => false

/-- Every shift stage is zero. -/
abbrev AllClear (c : List Device) : Prop := ∀ d ∈ c, d.sh = 0x00#8

/-- What the lines and the chain hold while CONSTRUCT is at the micro-step with code `c` (40_construct.md R80). -/
abbrev InitInv (c : Nat) (s : State) : Prop :=
  (1 ≤ c → s.allOut = true) ∧
  (2 ≤ c → s.lvl.oeN = true) ∧
  (3 ≤ c → s.lvl.clrN = false ∧ AllClear s.chain) ∧
  (4 ≤ c → s.lvl.sck = false) ∧
  (5 ≤ c → s.lvl.rck = false) ∧
  (6 ≤ c → s.lvl.ser = false)

/-- What the lines hold between operations (10_state.md R27). -/
abbrev RestInv (s : State) : Prop :=
  s.allOut = true ∧ s.lvl.sck = false ∧ s.lvl.rck = false ∧ s.lvl.clrN = true

/-- What the lines hold while BYTESHIFT is at the micro-step with code `c` (41_byteshift.md R90, R91): SCK is high
from S3 to S5a, RCK is high from S5b to S7 in a latching bit cycle, SER carries the current bit after S1. -/
abbrev ShiftInv (c : Nat) (s : State) : Prop :=
  s.allOut = true ∧ s.lvl.clrN = true ∧
  s.lvl.sck = decide (c = 3 ∨ c = 4) ∧
  s.lvl.rck = (latchNow s.params.latchMode s.bitIdx && decide (6 ≤ c)) ∧
  (1 ≤ c → s.lvl.ser = dataBit s.dreg s.bitIdx)

/-- The invariant of the sequencer positions. -/
abbrev LineInv (s : State) : Prop :=
  (s.seq = .init → InitInv s.stepReg.toNat s) ∧
  (s.seq = .idle → RestInv s) ∧
  (s.seq = .shift → ShiftInv s.stepReg.toNat s)

/-- How many micro-steps are left of the operation in progress (60_exceptions.md R122). -/
def remaining (s : State) : Nat :=
  match s.seq with
  | .init => 8 - s.stepReg.toNat
  | .shift => 64 - (8 * s.bitIdx.toNat + s.stepReg.toNat)
  | .unconstructed | .idle => 0

/-- The events of CONSTRUCT on lines that are already outputs (30_encoding.md R69). -/
def constructListing (settle : Ticks) : List Event :=
  [.write .oeN true, .write .clrN false, .write .sck false, .write .rck false, .write .ser false, .wait settle,
   .write .clrN true]

/-- The event of S5b in the cycle of bit i (30_encoding.md R69). -/
def latchListing (m : LatchMode) (i : Nat) : List Event :=
  if m = .perBit ∨ i = 7 then [.write .rck true] else []

/-- The events of the bit cycle of bit i (30_encoding.md R69). -/
def bitListing (m : LatchMode) (delay : Ticks) (data : Byte) (i : Nat) : List Event :=
  [.write .ser (data.getLsbD i), .wait delay, .write .sck true, .wait delay, .write .sck false] ++
    latchListing m i ++ [.wait delay, .write .rck false]

/-- The events of a BYTESHIFT (30_encoding.md R69). -/
def byteListing (m : LatchMode) (delay : Ticks) (data : Byte) : List Event :=
  (List.range 8).flatMap (bitListing m delay data)

/-- The events of micro-step I0 (20_memory.md R35): one for each line that is not yet an output, in index order. -/
def configListing (dir : PerLine Drive) : List Event :=
  (Line.all.filter fun l => dir.get l != .out).map .config

/-- The bytes of the shift stages, device 0 first. -/
def shiftStages (s : State) : List Byte := s.chain.map Device.sh

/-- The bytes of the latch stages, device 0 first. -/
def latchStages (s : State) : List Byte := s.chain.map Device.lt

end Sys2Proof.Machine
end

