-- ==== Sys2Proof/WellFormed.lean ====
section
/-! DEFINITION. The canonical commands: what an encoder should emit (30_encoding.md R64). A command that is not
canonical is legal all the same; the decoder accepts it and the machine runs it. -/

namespace Sys2Proof

/-- The canonical form of 30_encoding.md R64: an ignored data field is 0x00. -/
def Instr.wellFormed : Instr → Bool
  | .construct ignored     => ignored == 0x00#8
  | .byteShift _           => true
  | .enableOutput ignored  => ignored == 0x00#8
  | .disableOutput ignored => ignored == 0x00#8

end Sys2Proof
end

