-- ==== Sys2Proof/Certificates/Slice0/Obligations.lean ====
section
/-! DEFINITION. The statements for the provers, each from the rules of spec/ its docstring names. `Sound` and `patient`
(Safety.lean) are the premises of a run and of a host that keeps its contract; `RestInv` is what the lines hold between
operations, kept by every step (`LineInvKeptByEveryStep`). -/

open Sys2Proof Sys2Proof.Machine

/-! ### Encoding -/

/-- R60, R61, R64: a number decodes to a command exactly when it is that command's word, and the numbers of more than
ten bits are rejected by name. -/
def Obligations.DecodeInvertsEncode : Prop :=
  (∀ (n : Nat) (i : Instr), decodeWord n = .ok i ↔ n = (encode i).toNat) ∧
  (∀ n : Nat, 2 ^ 10 ≤ n → decodeWord n = .error .widerThanCommandWord)

/-- R61: the match and mask of each row of the opcode map, and the canonical words. -/
def Obligations.OpcodeMapRows : Prop :=
  (∀ w : CmdWord,
    (decode w = .construct (w.extractLsb' 0 8) ↔ w &&& 0x300#10 = 0x000#10) ∧
    (decode w = .byteShift (w.extractLsb' 0 8) ↔ w &&& 0x300#10 = 0x100#10) ∧
    (decode w = .enableOutput (w.extractLsb' 0 8) ↔ w &&& 0x300#10 = 0x200#10) ∧
    (decode w = .disableOutput (w.extractLsb' 0 8) ↔ w &&& 0x300#10 = 0x300#10)) ∧
  encode (.construct 0) = 0x000#10 ∧ (∀ d : Byte, encode (.byteShift d) = 0x100#10 + d.setWidth 10) ∧
  encode (.enableOutput 0) = 0x200#10 ∧ encode (.disableOutput 0) = 0x300#10

/-- R64: every word decodes; the data field of the three commands without an operand has no effect; the canonical
commands are those with a zero there; and what can be wrong with a command is its timing alone: every word is accepted
without a fault but while BUSY = 1, and but for the three commands other than CONSTRUCT before CONSTRUCT. -/
def Obligations.IgnoredFieldAndNoIllegalWord : Prop :=
  (∀ n : Nat, n < 1024 → ∃ i, decodeWord n = .ok i) ∧
  (∀ (d e : Byte) (s : State),
    exec (.construct d) s = exec (.construct e) s ∧
    exec (.enableOutput d) s = exec (.enableOutput e) s ∧
    exec (.disableOutput d) s = exec (.disableOutput e) s) ∧
  (∀ i : Instr, i.wellFormed = true ↔
    encode i = 0x000#10 ∨ (∃ d, i = .byteShift d) ∨ encode i = 0x200#10 ∨ encode i = 0x300#10) ∧
  (∀ (w : CmdWord) (s : State), s.fault = none → ∃ t, exec (decode w) s = .next t ∧
    t.fault = (if s.busy = true then some .cmdWhileBusy
      else if s.seq = .unconstructed ∧ opField w ≠ 0b00#2 then some .useBeforeConstruct
      else none))

/-- 95_test_vectors.md V9, from R61: a few words and the commands they stand for. -/
def Obligations.SampleWordsDecode : Prop :=
  decodeTableWord 16 0x000 = some (.construct 0x00) ∧ decodeTableWord 16 0x0FF = some (.construct 0xFF) ∧
  decodeTableWord 16 0x100 = some (.byteShift 0x00) ∧ decodeTableWord 16 0x1FC = some (.byteShift 0xFC) ∧
  decodeTableWord 16 0x2AB = some (.enableOutput 0xAB) ∧ decodeTableWord 16 0x3FF = some (.disableOutput 0xFF)

/-! ### Power-on and the end of a run -/

/-- R24, R130: SEQ, TRACE and FAULT at power-on, and the flags that follow from SEQ. Every other value of the reset
state is the model's choice (log entries 2, 4, 5) and nothing is stated of it. -/
def Obligations.ResetIsPoweredOn : Prop :=
  PoweredOn State.reset ∧ State.reset.busy = false ∧ State.reset.constructed = false

/-- R117, R130, R132: the return of power starts a new run from any state, a faulted one included; the parameters, the
inputs and the number of devices are those of before. That a return of power is a step of the model, and that a foreign
binding of the run before is gone with it, is the model's choice (log entries 9 and 21). -/
def Obligations.PowerCycleStartsNewRun : Prop :=
  ∀ (s : State) (rest : List HostMove), s.host = .powerCycle :: rest →
    ∃ t, step s = .next t ∧ PoweredOn t ∧ t.busy = false ∧ t.constructed = false ∧ t.host = rest ∧
      t.params = s.params ∧ t.cfgSettleIn = s.cfgSettleIn ∧ t.cfgDelayIn = s.cfgDelayIn ∧
      t.chain.length = s.chain.length

/-- R7, R13, R130: once a run has ended, and so too before the first command, no step until the return of power changes
anything but the inputs, the moves to come, FAULT (a foreign agent may still move) and the model's own counter; the run
stays ended while no fault is recorded; moves that set the inputs or do nothing always complete; and with no move left
the state stays as it is, but that the wires of undriven lines stay unspecified. That the machine takes steps then is
the model's choice (log entries 3, 8 and 10), and that the commands of a run are those ahead of the next return of power
is log entry 20. -/
def Obligations.EndedRunStays : Prop :=
  ∀ s : State, Sound s → RunEnded s → ∀ n : Nat,
    (∀ t, .powerCycle ∉ s.host.take n → Host.Core.run Sys2Proof.core n s = .next t →
      t = { s with cfgSettleIn := t.cfgSettleIn, cfgDelayIn := t.cfgDelayIn, fault := t.fault,
                   host := s.host.drop n, free := t.free } ∧
      (t.fault = none → RunEnded t)) ∧
    ((s.host.take n).all quietMove = true → ∃ t, Host.Core.run Sys2Proof.core n s = .next t ∧ RunEnded t) ∧
    (s.host = [] → ∃ t, Host.Core.run Sys2Proof.core n s = .next t ∧ t = { s with free := t.free }) ∧
    (s.host = [] → s.allOut = true → Host.Core.run Sys2Proof.core n s = .next s)

/-! ### The step -/

/-- R7, R30, R66: the word placed for the next step is decoded and issued; a host that keeps its contract issues it when
BUSY = 0 and meanwhile the controller moves. What `step` puts around a command or a micro-step is `redraw`, which
changes nothing but the model's own counter of free values, and nothing at all once the lines are outputs (log entries
1 and 10). -/
def Obligations.StepIssuesDecodedCommand : Prop :=
  (∀ (s : State) (nbits w : Nat) (i : Instr), Sound s → decodeTableWord nbits w = some i →
    step (s.withFetchWord nbits w) = redrawNext (exec i s)) ∧
  (∀ (s : State) (w : CmdWord) (rest : List HostMove), Sound s → s.host = .issueWhenReady w :: rest →
    step s = if s.busy then .next (redraw (controllerStep s)) else redrawNext (exec (decode w) (s.setHost rest))) ∧
  (∀ t : State, redrawNext (.next t) = .next (redraw t) ∧ redraw t = { t with free := (redraw t).free } ∧
    (t.allOut = true → redraw t = t))

/-- R13: with no command presented, a step of a sound state is one micro-step while BUSY = 1 and nothing otherwise (but
for `redraw`, log entries 3 and 10). -/
def Obligations.StepRunsMicroStep : Prop :=
  ∀ s : State, Sound s → s.host = [] →
    step s = .next (redraw (match s.seq with
      | .init => initMicroStep (initStepOf s.stepReg) s
      | .shift => shiftMicroStep (shiftStepOf s.stepReg) s
      | .idle => s
      | .unconstructed => s))

/-- R32: the inputs are sampled by the acceptance of CONSTRUCT, and in every other step their value is ignored. -/
def Obligations.InputsSampledOnlyByConstruct : Prop :=
  (∀ (s : State) (d : Byte), s.busy = false →
    ∃ t, exec (.construct d) s = .next t ∧ t.cfgSettle = s.cfgSettleIn ∧ t.cfgDelay = s.cfgDelayIn) ∧
  (∀ (s : State) (a b : Ticks), ¬ (s.busy = false ∧ ∃ d, issued s = some (.construct d)) →
    agree sameButInputs (step s) (step { s with cfgSettleIn := a, cfgDelayIn := b }))

/-- R33: the controller and the host learn nothing of the levels of the lines and of the chain: two states that differ
there alone step to states that differ there alone. -/
def Obligations.LinesAndChainAreWriteOnly : Prop :=
  ∀ (s : State) (p : PerLine Level) (c : List Device), c.length = s.chain.length →
    agree sameButWires (step s) (step { s with lvl := p, chain := c })

/-! ### CONSTRUCT -/

/-- R18, R19, R66: the acceptance of CONSTRUCT, whenever BUSY = 0, and all it changes. -/
def Obligations.ConstructAccepted : Prop :=
  ∀ (s : State) (d : Byte), s.busy = false →
    exec (.construct d) s =
      .next { s with cfgSettle := s.cfgSettleIn, cfgDelay := s.cfgDelayIn, seq := .init, stepReg := 0#3 }

/-- R80, R81 (a) to (e), R131: from any state with BUSY = 0, whatever the lines and the chain held, CONSTRUCT ends after
its acceptance and eight micro-steps with the block at rest, the shift stages clear and the outputs blank; the latch
stages are kept if the lines were outputs already. -/
def Obligations.ConstructRunsToRest : Prop :=
  ∀ (s : State) (w : CmdWord) (d : Byte) (rest : List HostMove),
    Sound s → s.busy = false → s.host = .issueWhenReady w :: rest → patient rest = true → decode w = .construct d →
    ∃ t, Host.Core.run Sys2Proof.core 9 s = .next t ∧
      t.seq = .idle ∧ t.busy = false ∧ t.constructed = true ∧ t.allOut = true ∧
      t.pins = t.lvl ∧ t.pins.bits = 0b11000#5 ∧ AllClear t.chain ∧
      t.outputs = List.replicate s.chain.length .blank ∧
      t.cfgSettle = s.cfgSettleIn ∧ t.cfgDelay = s.cfgDelayIn ∧ t.dreg = s.dreg ∧ t.bitIdx = s.bitIdx ∧
      t.fault = none ∧ t.params = s.params ∧ t.host = rest ∧ t.chain.length = s.chain.length ∧
      (s.allOut = true → latchStages t = latchStages s)

/-- R81 (f): from I1 on and to the end of CONSTRUCT every output is blank (the third step of the run is I1). -/
def Obligations.ConstructBlanksFromI1On : Prop :=
  ∀ (s : State) (w : CmdWord) (d : Byte) (rest : List HostMove),
    Sound s → s.busy = false → s.host = .issueWhenReady w :: rest → patient rest = true → decode w = .construct d →
    ∀ k : Nat, 3 ≤ k → k ≤ 9 →
      ∃ t, Host.Core.run Sys2Proof.core k s = .next t ∧ t.outputs = List.replicate s.chain.length .blank

/-- R69, R70: the events of CONSTRUCT, and that they are six writes and one wait, of CFG_SETTLE ticks, with no rising
edge of SCK or RCK whatever the levels were before. -/
def Obligations.ConstructEvents : Prop :=
  ∀ (s : State) (w : CmdWord) (d : Byte) (rest : List HostMove),
    Sound s → s.busy = false → s.host = .issueWhenReady w :: rest → patient rest = true → decode w = .construct d →
    ∃ t es, Host.Core.run Sys2Proof.core 9 s = .next t ∧ t.trace = s.trace ++ configListing s.dir ++ es ∧
      es = constructListing s.cfgSettleIn ∧ countWrites es = 6 ∧ countWaits es = 1 ∧
      totalTicks es = s.cfgSettleIn.toNat ∧
      (∀ levels : PerLine Level, countRises .sck levels es = 0 ∧ countRises .rck levels es = 0)

/-! ### Faults -/

/-- R112, R115: every command issued while BUSY = 1 is F_CMD_WHILE_BUSY, CONSTRUCT included: it changes nothing but
FAULT. That the next step stops with the fault is the model's reading of R111 and R117 (log entry 7); `redraw` around a
step is log entry 10. -/
def Obligations.CommandWhileBusyFaults : Prop :=
  (∀ (i : Instr) (s : State), s.busy = true →
    exec i s = .next { s with fault := some (s.fault.getD .cmdWhileBusy) }) ∧
  (∀ (s : State) (w : CmdWord) (rest : List HostMove), Sound s → s.busy = true → s.host = .issue w :: rest →
    ∃ t, step s = .next t ∧ t = redraw { s with host := rest, fault := some .cmdWhileBusy } ∧
      (keepsPower t = true → step t = .fault .cmdWhileBusy))

/-- R113: BYTESHIFT, ENABLE_OUTPUT and DISABLE_OUTPUT issued while SEQ is UNCONSTRUCTED are F_USE_BEFORE_CONSTRUCT, and
while CONSTRUCT is in progress F_CMD_WHILE_BUSY. That the next step stops with the fault is the model's reading of R111
and R117 (log entry 7). -/
def Obligations.UseBeforeConstructFaults : Prop :=
  ∀ (i : Instr) (s : State), (∀ d, i ≠ .construct d) → s.fault = none →
    (s.seq = .unconstructed → ∃ t, exec i s = .next t ∧ t = { s with fault := some .useBeforeConstruct } ∧
      (keepsPower t = true → step t = .fault .useBeforeConstruct)) ∧
    (s.seq = .init → ∃ t, exec i s = .next t ∧ t = { s with fault := some .cmdWhileBusy } ∧
      (keepsPower t = true → step t = .fault .cmdWhileBusy))

/-- R111: a raise sets FAULT if it was none and changes no other state; the fault is terminal for the run, so no step
but the return of power leaves it; the codes are 1 to 4. That the step which raises still answers a next state is the
model's choice (log entry 7). -/
def Obligations.RaiseRecordsAndStops : Prop :=
  (∀ (f : Fault) (s : State), ∃ t, raise f s = .next t ∧ t = { s with fault := t.fault } ∧
    (s.fault = none → t.fault = some f) ∧ (∀ g, s.fault = some g → t.fault = some g)) ∧
  (∀ (f : Fault) (s : State) (n : Nat), s.fault = some f → keepsPower s = true →
    Host.Core.run Sys2Proof.core (n + 1) s = .fault f) ∧
  (Fault.code .cmdWhileBusy = 1 ∧ Fault.code .useBeforeConstruct = 2 ∧ Fault.code .lineBinding = 3 ∧
    Fault.code .foreignWrite = 4)

/-- R114: a foreign write and a foreign binding are recorded at their step, and a binding that breaks the premises at
the first step of the run; the run then has no meaning. The moves are the model's choice (log entry 8), and `redraw`
around a step is log entry 10. -/
def Obligations.BindingPremisesFault : Prop :=
  (∀ (s : State) (l : Line) (v : Level) (rest : List HostMove), Sound s → s.host = .foreignWrite l v :: rest →
    step s = .next (redraw { s with host := rest, fault := some .foreignWrite })) ∧
  (∀ (s : State) (l : Line) (rest : List HostMove), Sound s → s.host = .foreignBind l :: rest →
    step s = .next (redraw { s with host := rest, fault := some .lineBinding })) ∧
  (∀ s : State, s.fault = none → keepsPower s = true →
    ((∃ l m : Line, l ≠ m ∧ s.params.physicalPin l = s.params.physicalPin m) ∨
      (∃ l : Line, ∃ h : Nat, (h ∈ s.params.taken ∨ h ∈ s.params.notOutputs) ∧
        s.params.physicalPin l = Config.pinOf h)) →
    step s = .next (redraw { s with fault := some .lineBinding }))

/-! ### BYTESHIFT -/

/-- R14, R15, R66: the acceptance of BYTESHIFT in IDLE and all it changes. -/
def Obligations.ByteShiftAccepted : Prop :=
  ∀ (s : State) (v : Byte), s.seq = .idle →
    exec (.byteShift v) s = .next { s with dreg := v, bitIdx := 0#3, seq := .shift, stepReg := 0#3 }

/-- R13, R90, R91: one bit cycle from S1: the chain takes in the current bit and, in a latching cycle, is latched; the
position moves to S1 of the next bit, or the operation ends. -/
def Obligations.BitCycle : Prop :=
  ∀ s : State, Sound s → patient s.host = true → s.seq = .shift → s.stepReg = 0#3 → ShiftInv 0 s →
    ∃ t, Host.Core.run Sys2Proof.core 8 s = .next t ∧
      t.chain = (let c := chainShift (s.dreg.getLsbD s.bitIdx.toNat) s.chain
                 if s.params.latchMode = .perBit ∨ s.bitIdx = 7#3 then chainLatch c else c) ∧
      t.trace = s.trace ++ bitListing s.params.latchMode s.cfgDelay s.dreg s.bitIdx.toNat ∧
      t.lvl = s.lvl.set .ser (s.dreg.getLsbD s.bitIdx.toNat) ∧
      (s.bitIdx = 7#3 → t.seq = .idle ∧ t.bitIdx = 7#3) ∧
      (s.bitIdx ≠ 7#3 → t.seq = .shift ∧ t.bitIdx = s.bitIdx + 1#3 ∧ t.stepReg = 0#3) ∧
      t = { s with seq := t.seq, stepReg := t.stepReg, bitIdx := t.bitIdx, lvl := t.lvl, chain := t.chain, trace := t.trace }

/-- R92: the post-conditions of BYTESHIFT, in both latch modes, for a chain of any length. -/
def Obligations.ByteShiftDeliversByte : Prop :=
  ∀ (s : State) (w : CmdWord) (v : Byte) (rest : List HostMove),
    Sound s → s.seq = .idle → RestInv s → s.host = .issueWhenReady w :: rest → patient rest = true →
    decode w = .byteShift v →
    ∃ t, Host.Core.run Sys2Proof.core 65 s = .next t ∧
      (0 < s.chain.length → (shiftStages t)[0]? = some v) ∧
      (∀ k, 1 ≤ k → k < s.chain.length → (shiftStages t)[k]? = (shiftStages s)[k - 1]?) ∧
      t.chain.length = s.chain.length ∧
      latchStages t = shiftStages t ∧
      t.outputs = (if s.lvl.oeN then List.replicate s.chain.length .blank else (latchStages t).map .pattern) ∧
      t.pins = ⟨false, v.getLsbD 7, false, true, s.lvl.oeN⟩ ∧
      t.dreg = v ∧ t.bitIdx = 7#3 ∧ t.seq = .idle ∧
      t.host = rest ∧ Sound t ∧ RestInv t

/-- R43, R93 (d): bit j - 1 is on SER when the j-th shift happens, and after it the shift stage of device 0 holds the j
bits sent so far above the upper bits of its old byte P. -/
def Obligations.PartialByteInShiftStage : Prop :=
  ∀ (s : State) (w : CmdWord) (v : Byte) (rest : List HostMove) (p : Device) (ds : List Device) (j : Nat),
    Sound s → s.seq = .idle → RestInv s → s.host = .issueWhenReady w :: rest → patient rest = true →
    decode w = .byteShift v → s.chain = p :: ds → 1 ≤ j → j ≤ 8 →
    ∃ t q es, Host.Core.run Sys2Proof.core (1 + 8 * (j - 1) + 3) s = .next t ∧
      t.lvl.ser = v.getLsbD (j - 1) ∧ t.chain = q :: es ∧
      q.sh = ((v &&& BitVec.ofNat 8 (2 ^ j - 1)) <<< (8 - j)) ||| (p.sh >>> j)

/-- R69, R70, R151: the events of BYTESHIFT and their counts in both latch modes. -/
def Obligations.ByteShiftEvents : Prop :=
  ∀ (s : State) (w : CmdWord) (v : Byte) (rest : List HostMove),
    Sound s → s.seq = .idle → RestInv s → s.host = .issueWhenReady w :: rest → patient rest = true →
    decode w = .byteShift v →
    ∃ t es, Host.Core.run Sys2Proof.core 65 s = .next t ∧ t.trace = s.trace ++ es ∧
      es = byteListing s.params.latchMode s.cfgDelay v ∧
      countWaits es = 24 ∧ totalTicks es = 24 * s.cfgDelay.toNat ∧
      countWrites es = (if s.params.latchMode = .perBit then 40 else 33)

/-- R46, R70: of the line writes of a BYTESHIFT, from lines at rest, an observer sees 18 changes of SCK and RCK, or 32
with a latch in every bit cycle, and the changes of SER; and the 24 waits if they are not zero. -/
def Obligations.ObservedLevelChanges : Prop :=
  ∀ (m : LatchMode) (delay : Ticks) (v : Byte) (levels : PerLine Level), levels.sck = false → levels.rck = false →
    (observe levels (byteListing m delay v)).countP Observed.isPin =
      (if m = .perBit then 32 else 18) + serChanges levels.ser v ∧
    (observe levels (byteListing m delay v)).countP (fun o => !o.isPin) = (if delay = 0#16 then 0 else 24)

/-- R152: 64 micro-steps, 24 waits of the same length in all, 8 pulses of SCK and 1 or 8 of RCK, whatever the byte; only
the level of SER depends on it. -/
def Obligations.ByteShiftIsDataIndependent : Prop :=
  ∀ (s : State) (w : CmdWord) (v : Byte) (rest : List HostMove),
    Sound s → s.seq = .idle → RestInv s → s.host = .issueWhenReady w :: rest → patient rest = true →
    decode w = .byteShift v →
    (∀ k, 1 ≤ k → k ≤ 64 → ∃ u, Host.Core.run Sys2Proof.core k s = .next u ∧ u.busy = true) ∧
    ∃ t es, Host.Core.run Sys2Proof.core 65 s = .next t ∧ t.busy = false ∧ t.trace = s.trace ++ es ∧
      countWaits es = 24 ∧ totalTicks es = 24 * s.cfgDelay.toNat ∧ countRises .sck s.lvl es = 8 ∧
      countRises .rck s.lvl es = (if s.params.latchMode = .perBit then 8 else 1) ∧
      es.map eraseSer = (byteListing s.params.latchMode s.cfgDelay 0x00#8).map eraseSer

/-- R91: the end state of a BYTESHIFT is the same in both latch modes, but for the trace. -/
def Obligations.LatchModesEndAlike : Prop :=
  ∀ (s : State) (w : CmdWord) (v : Byte) (rest : List HostMove) (m : LatchMode),
    Sound s → s.seq = .idle → RestInv s → s.host = .issueWhenReady w :: rest → patient rest = true →
    decode w = .byteShift v →
    ∃ t u, Host.Core.run Sys2Proof.core 65 s = .next t ∧
      Host.Core.run Sys2Proof.core 65 { s with params := { s.params with latchMode := m } } = .next u ∧
      u = { t with params := u.params, trace := u.trace }

/-- R34, R44, R149: after any sequence of bytes the chain holds the newest bytes, newest in device 0, then what the
shift stages held before; all of it is latched. -/
def Obligations.BytesTravelDownTheChain : Prop :=
  ∀ (vs : List Byte) (s : State) (rest : List HostMove),
    Sound s → s.seq = .idle → RestInv s →
    s.host = vs.map (fun v => .issueWhenReady (encode (.byteShift v))) ++ rest → patient rest = true →
    ∃ t, Host.Core.run Sys2Proof.core (65 * vs.length) s = .next t ∧
      shiftStages t = (vs.reverse ++ shiftStages s).take s.chain.length ∧
      (vs ≠ [] → latchStages t = shiftStages t) ∧ (vs = [] → latchStages t = latchStages s) ∧
      t.lvl.oeN = s.lvl.oeN ∧ t.seq = .idle ∧ t.host = rest ∧ Sound t ∧ RestInv t

/-- R93 (e): with the outputs disabled nothing of a BYTESHIFT is visible, at any of its steps. -/
def Obligations.DisabledByteStaysHidden : Prop :=
  ∀ (s : State) (w : CmdWord) (v : Byte) (rest : List HostMove) (k : Nat),
    Sound s → s.seq = .idle → RestInv s → s.lvl.oeN = true → s.host = .issueWhenReady w :: rest →
    patient rest = true → decode w = .byteShift v → k ≤ 65 →
    ∃ t, Host.Core.run Sys2Proof.core k s = .next t ∧ t.outputs = List.replicate s.chain.length .blank

/-- R50, R122: an operation in progress always ends, after exactly the micro-steps left of it, and until then BUSY
is 1; no invariant of the lines is needed. -/
def Obligations.OperationsAlwaysEnd : Prop :=
  ∀ s : State, Sound s → s.busy = true → patient s.host = true →
    (∀ k, k < remaining s → ∃ u, Host.Core.run Sys2Proof.core k s = .next u ∧ u.busy = true) ∧
    ∃ t, Host.Core.run Sys2Proof.core (remaining s) s = .next t ∧ t.seq = .idle ∧ t.host = s.host

/-! ### ENABLE_OUTPUT and DISABLE_OUTPUT -/

/-- R100: the words of ENABLE_OUTPUT; it completes in every IDLE state; with the lines at rest it changes the level of OE_n and the
trace alone and every device shows its latch stage; if OE_n was low already nothing but the trace changes; it faults
while BUSY = 1 and before CONSTRUCT. -/
def Obligations.EnableOutputShowsLatches : Prop :=
  (∀ w : CmdWord, opField w = 0b10#2 ↔ ∃ d, decode w = .enableOutput d) ∧ encode (.enableOutput 0) = 0x200#10 ∧
  ∀ (s : State) (d : Byte),
    (s.seq = .idle → ∃ t, exec (.enableOutput d) s = .next t ∧ t.seq = .idle ∧ t.busy = false ∧ t.fault = s.fault ∧
      t.lvl = s.lvl.set .oeN false) ∧
    (s.seq = .idle → RestInv s → ∃ t, exec (.enableOutput d) s = .next t ∧
      t = { s with lvl := { s.lvl with oeN := false }, trace := s.trace ++ [.write .oeN false] } ∧
      t.outputs = (latchStages s).map .pattern ∧
      (s.lvl.oeN = false → t = { s with trace := t.trace })) ∧
    (s.busy = true → exec (.enableOutput d) s = .next { s with fault := some (s.fault.getD .cmdWhileBusy) }) ∧
    (s.seq = .unconstructed →
      exec (.enableOutput d) s = .next { s with fault := some (s.fault.getD .useBeforeConstruct) })

/-- R101: the words of DISABLE_OUTPUT; it completes in every IDLE state; with the lines at rest it changes the level of OE_n and the
trace alone and every output is blank; if OE_n was high already nothing but the trace changes; it faults while
BUSY = 1 and before CONSTRUCT. -/
def Obligations.DisableOutputBlanks : Prop :=
  (∀ w : CmdWord, opField w = 0b11#2 ↔ ∃ d, decode w = .disableOutput d) ∧ encode (.disableOutput 0) = 0x300#10 ∧
  ∀ (s : State) (d : Byte),
    (s.seq = .idle → ∃ t, exec (.disableOutput d) s = .next t ∧ t.seq = .idle ∧ t.busy = false ∧ t.fault = s.fault ∧
      t.lvl = s.lvl.set .oeN true) ∧
    (s.seq = .idle → RestInv s → ∃ t, exec (.disableOutput d) s = .next t ∧
      t = { s with lvl := { s.lvl with oeN := true }, trace := s.trace ++ [.write .oeN true] } ∧
      t.outputs = List.replicate s.chain.length .blank ∧
      (s.lvl.oeN = true → t = { s with trace := t.trace })) ∧
    (s.busy = true → exec (.disableOutput d) s = .next { s with fault := some (s.fault.getD .cmdWhileBusy) }) ∧
    (s.seq = .unconstructed →
      exec (.disableOutput d) s = .next { s with fault := some (s.fault.getD .useBeforeConstruct) })

/-- R48, R102 (a): a second ENABLE_OUTPUT, or a second DISABLE_OUTPUT, changes nothing but the trace. -/
def Obligations.GatingIsIdempotent : Prop :=
  ∀ (s t u : State) (d e : Byte), s.seq = .idle → RestInv s →
    (exec (.enableOutput d) s = .next t → exec (.enableOutput e) t = .next u → u = { t with trace := u.trace }) ∧
    (exec (.disableOutput d) s = .next t → exec (.disableOutput e) t = .next u → u = { t with trace := u.trace })

/-! ### Frames -/

/-- R66, R80, R90, R100, R101: what each command leaves unchanged when `exec` answers a next state. There is no memory
(R30); the byte cells of the chain are its only storage. -/
def Obligations.CommandFrames : Prop :=
  ∀ (i : Instr) (s t : State), exec i s = .next t →
    t.dir = s.dir ∧ t.params = s.params ∧ t.cfgSettleIn = s.cfgSettleIn ∧ t.cfgDelayIn = s.cfgDelayIn ∧
    t.host = s.host ∧ latchStages t = latchStages s ∧ (∀ l : Line, l ≠ .oeN → t.lvl.get l = s.lvl.get l) ∧
    (t.fault ≠ s.fault → t = { s with fault := t.fault }) ∧
    (∀ d, i = .construct d →
      t.dreg = s.dreg ∧ t.bitIdx = s.bitIdx ∧ t.lvl = s.lvl ∧ t.chain = s.chain ∧ t.trace = s.trace ∧
      t.free = s.free) ∧
    (∀ d, i = .byteShift d →
      t.cfgSettle = s.cfgSettle ∧ t.cfgDelay = s.cfgDelay ∧ t.lvl = s.lvl ∧ t.chain = s.chain ∧ t.trace = s.trace ∧
      t.free = s.free) ∧
    (∀ d, (i = .enableOutput d ∨ i = .disableOutput d) →
      t.seq = s.seq ∧ t.stepReg = s.stepReg ∧ t.bitIdx = s.bitIdx ∧ t.dreg = s.dreg ∧ t.cfgSettle = s.cfgSettle ∧
      t.cfgDelay = s.cfgDelay ∧ (RestInv s → t.chain = s.chain ∧ t.free = s.free))

/-- R13: what a micro-step of the controller leaves unchanged. DIR changes in I0 alone, the latch stages in I0 and S5b,
the shift stages in I0, I1, I2 and S3. -/
def Obligations.MicroStepFrames : Prop :=
  ∀ s : State, s.busy = true → LineInv s →
    let t := controllerStep s
    t.dreg = s.dreg ∧ t.cfgSettle = s.cfgSettle ∧ t.cfgDelay = s.cfgDelay ∧ t.fault = s.fault ∧
    t.params = s.params ∧ t.cfgSettleIn = s.cfgSettleIn ∧ t.cfgDelayIn = s.cfgDelayIn ∧ t.host = s.host ∧
    (s.seq = .init → t.bitIdx = s.bitIdx) ∧
    (s.seq = .shift → s.stepReg ≠ 7#3 → t.bitIdx = s.bitIdx ∧ t.seq = s.seq) ∧
    (¬ (s.seq = .init ∧ s.stepReg = 0#3) → t.dir = s.dir ∧ t.free = s.free) ∧
    (¬ (s.seq = .init ∧ s.stepReg = 0#3) → ¬ (s.seq = .shift ∧ s.stepReg = 5#3) → latchStages t = latchStages s) ∧
    (¬ (s.seq = .init ∧ s.stepReg.toNat ≤ 2) → ¬ (s.seq = .shift ∧ s.stepReg = 2#3) → shiftStages t = shiftStages s)

/-! ### Invariants and whole-machine rules -/

/-- R27: the invariant of the lines holds at power-on. -/
def Obligations.LineInvHoldsAtReset : Prop := LineInv State.reset

/-- R13, R27, R80, R90: every step, of whatever agent and to whatever next state, keeps what each position of the
sequencer says of the lines and of the shift stages. -/
def Obligations.LineInvKeptByEveryStep : Prop :=
  ∀ s t : State, LineInv s → step s = .next t → LineInv t

/-- R5: no step changes a parameter: LATCH_MODE, LINE_BINDING, N_DEV. That what is bound around the lines stays too,
over a foreign binding and the return of power after it, is the model's choice (log entry 21). -/
def Obligations.ParametersNeverChange : Prop :=
  ∀ s t : State, step s = .next t → t.params = s.params ∧ t.chain.length = s.chain.length

/-- R20: within a run DIR is written by micro-step I0 alone, which makes all five lines outputs; no line ever ceases to
be one. -/
def Obligations.DriveModeOnlyBecomesOut : Prop :=
  ∀ s t : State, keepsPower s = true → step s = .next t →
    (∀ l : Line, s.dir.get l = .out → t.dir.get l = .out) ∧
    (t.dir ≠ s.dir → s.seq = .init ∧ s.stepReg = 0#3 ∧ t.allOut = true) ∧
    (Sound s → controllerMoves s = true → s.seq = .init → s.stepReg = 0#3 → t.allOut = true)

/-- R14: within a run DREG is written by the acceptance of a BYTESHIFT alone, with its data. -/
def Obligations.DregWrittenOnlyByByteShift : Prop :=
  ∀ s t : State, keepsPower s = true → step s = .next t →
    t.dreg = s.dreg ∨ ∃ v, issued s = some (.byteShift v) ∧ s.seq = .idle ∧ t.dreg = v

/-- R18, R19, R147: within a run CFG_SETTLE and CFG_DELAY are written by the acceptance of a CONSTRUCT alone. -/
def Obligations.DelaysWrittenOnlyByConstruct : Prop :=
  ∀ s t : State, keepsPower s = true → step s = .next t →
    (t.cfgSettle = s.cfgSettle ∧ t.cfgDelay = s.cfgDelay) ∨
    ∃ d, issued s = some (.construct d) ∧ s.busy = false ∧ t.cfgSettle = s.cfgSettleIn ∧ t.cfgDelay = s.cfgDelayIn

/-- R15: BITIDX is set to 0 by the acceptance of a BYTESHIFT and incremented by S7 when it is less than 7; nothing else
writes it within a run. -/
def Obligations.BitIndexCountsUp : Prop :=
  (∀ (s : State) (v : Byte), s.seq = .idle → ∃ t, exec (.byteShift v) s = .next t ∧ t.bitIdx = 0#3) ∧
  (∀ s t : State, keepsPower s = true → step s = .next t →
    (Sound s → s.seq = .idle → (∃ v, issued s = some (.byteShift v)) → t.bitIdx = 0#3) ∧
    (Sound s → controllerMoves s = true → s.seq = .shift → s.stepReg = 7#3 → s.bitIdx.toNat < 7 →
      t.bitIdx.toNat = s.bitIdx.toNat + 1) ∧
    (t.bitIdx ≠ s.bitIdx →
      (s.seq = .idle ∧ ∃ v, issued s = some (.byteShift v)) ∨
      (s.seq = .shift ∧ s.stepReg = 7#3 ∧ s.bitIdx.toNat < 7 ∧ controllerMoves s = true)))

/-- R16: BUSY is 1 exactly in INIT and SHIFT; it is set by the acceptance of CONSTRUCT or BYTESHIFT and by nothing else,
and cleared by I7 and by S7 of bit 7 and by nothing else. -/
def Obligations.BusyRisesAndFalls : Prop :=
  (∀ s : State, s.busy = true ↔ s.seq = .init ∨ s.seq = .shift) ∧
  (∀ (s : State) (d : Byte), s.busy = false → ∃ t, exec (.construct d) s = .next t ∧ t.busy = true) ∧
  (∀ (s : State) (d : Byte), s.seq = .idle → ∃ t, exec (.byteShift d) s = .next t ∧ t.busy = true) ∧
  (∀ s t : State, keepsPower s = true → step s = .next t →
    (s.busy = false → t.busy = true →
      ∃ i, issued s = some i ∧ ((∃ d, i = .construct d) ∨ (∃ d, i = .byteShift d))) ∧
    (s.busy = true → t.busy = false →
      controllerMoves s = true ∧
      ((s.seq = .init ∧ s.stepReg = 7#3) ∨ (s.seq = .shift ∧ s.stepReg = 7#3 ∧ s.bitIdx = 7#3))) ∧
    (Sound s → controllerMoves s = true →
      (s.seq = .init ∧ s.stepReg = 7#3) ∨ (s.seq = .shift ∧ s.stepReg = 7#3 ∧ s.bitIdx = 7#3) → t.busy = false))

/-- R17: CONSTRUCTED is 1 exactly in IDLE and SHIFT; it becomes 1 with I7 and, within a run, with nothing else; the
acceptance of a CONSTRUCT takes it to 0, and within a run nothing else does. -/
def Obligations.ConstructedRisesAndFalls : Prop :=
  (∀ s : State, s.constructed = true ↔ s.seq = .idle ∨ s.seq = .shift) ∧
  (∀ s t : State, keepsPower s = true → step s = .next t →
    (s.constructed = false → t.constructed = true → s.seq = .init ∧ s.stepReg = 7#3 ∧ controllerMoves s = true) ∧
    (s.constructed = true → t.constructed = false → ∃ d, issued s = some (.construct d)) ∧
    (Sound s → controllerMoves s = true → s.seq = .init → s.stepReg = 7#3 → t.constructed = true)) ∧
  (∀ (s : State) (d : Byte), s.busy = false → ∃ t, exec (.construct d) s = .next t ∧ t.constructed = false)

/-- R46, R50: within a run TRACE only grows, at its end, by at most one event but for the five of I0. -/
def Obligations.TraceOnlyGrows : Prop :=
  ∀ s t : State, keepsPower s = true → step s = .next t →
    ∃ es, t.trace = s.trace ++ es ∧ es.length ≤ 5 ∧ (¬ (s.seq = .init ∧ s.stepReg = 0#3) → es.length ≤ 1)

/-- R21, R36, R50: within a run a level changes only by a recorded write of that one line. -/
def Obligations.LevelsChangeOnlyByLineWrite : Prop :=
  ∀ s t : State, keepsPower s = true → step s = .next t → t.lvl ≠ s.lvl →
    ∃ l v, t.trace = s.trace ++ [.write l v] ∧ t.lvl = s.lvl.set l v

/-- R34, R41, R47: once the lines are outputs the latch stages change only in S5b of a latching bit cycle, by the
recorded rise of RCK, and take the shift stages' bytes. -/
def Obligations.LatchesChangeOnlyOnRckRise : Prop :=
  ∀ s t : State, LineInv s → s.allOut = true → keepsPower s = true → step s = .next t →
    latchStages t = latchStages s ∨
    (s.seq = .shift ∧ s.stepReg = 5#3 ∧ (s.params.latchMode = .perBit ∨ s.bitIdx = 7#3) ∧
      t.trace = s.trace ++ [.write .rck true] ∧ latchStages t = shiftStages s)

/-! ### The lines and the chain -/

/-- R35: LineConfig of an output has no effect; of an undriven line it makes that line an output, records C(l) and
leaves all else but the contents of the chain, which become free values (log entry 6; nothing is stated of them). -/
def Obligations.LineConfigEffect : Prop :=
  ∀ (s : State) (l : Line),
    (s.dir.get l = .out → lineConfig l s = s) ∧
    (s.dir.get l = .undriven → ∃ c n, c.length = s.chain.length ∧
      lineConfig l s = { s with dir := s.dir.set l .out, chain := c, free := n, trace := s.trace ++ [.config l] })

/-- R36: LineWrite on outputs sets one level, lets the chain react to the old and the new vector, and records W(l, v);
rewriting a level changes nothing but the trace. -/
def Obligations.LineWriteEffect : Prop :=
  ∀ (s : State) (l : Line) (v : Level), s.allOut = true →
    lineWrite l v s = { s with
      lvl := s.lvl.set l v
      chain := chainReact s.lvl (s.lvl.set l v) l s.chain
      trace := s.trace ++ [.write l v] } ∧
    (s.lvl.get l = v → (s.lvl.clrN = false → AllClear s.chain) → lineWrite l v s = { s with trace := s.trace ++ [.write l v] })

/-- R38: nothing but a low CLR_n, a rising SCK and a rising RCK makes the chain react. -/
def Obligations.OnlyThreeThingsReact : Prop :=
  ∀ (old new : PerLine Level) (l : Line) (c : List Device), chainReact old new l c ≠ c →
    new.clrN = false ∨ (l = .sck ∧ old.sck = false ∧ new.sck = true) ∨ (l = .rck ∧ old.rck = false ∧ new.rck = true)

/-- R39: while CLR_n is low every shift stage is zero, whatever edge there is, and the latch stages stay, but that a
rising RCK copies the zeros. -/
def Obligations.ClearIsALevel : Prop :=
  ∀ (old new : PerLine Level) (l : Line) (c : List Device), new.clrN = false →
    AllClear (chainReact old new l c) ∧
    (¬ (l = .rck ∧ old.rck = false ∧ new.rck = true) → (chainReact old new l c).map Device.lt = c.map Device.lt) ∧
    (l = .rck ∧ old.rck = false ∧ new.rck = true → ∀ d ∈ chainReact old new l c, d.lt = 0x00#8)

/-- R40: on a rising SCK with CLR_n high every shift stage moves one cell; cell 7 of device 0 takes SER, cell 7 of each
other device the last cell its neighbour held before the edge; the latch stages stay. -/
def Obligations.ShiftMovesEveryCell : Prop :=
  ∀ (old new : PerLine Level) (ds : List Device), new.clrN = true → old.sck = false → new.sck = true →
    (chainReact old new .sck ds).length = ds.length ∧
    ∀ (k : Nat) (d : Device), ds[k]? = some d →
      ∃ e, (chainReact old new .sck ds)[k]? = some e ∧ e.lt = d.lt ∧
        (∀ i, i < 7 → e.sh.getLsbD i = d.sh.getLsbD (i + 1)) ∧
        (k = 0 → e.sh.getLsbD 7 = new.ser) ∧
        (∀ p, 1 ≤ k → ds[k - 1]? = some p → e.sh.getLsbD 7 = p.sh.getLsbD 0)

/-- R41: on a rising RCK every shift stage is copied to its latch stage, whatever OE_n is. With CLR_n low what is copied
is the zeros: that clause rests on R39's level-acting clear, the spec's own inference from general knowledge (D14, log
entry 16). -/
def Obligations.LatchCopiesShiftStages : Prop :=
  ∀ (old new : PerLine Level) (c : List Device), old.rck = false → new.rck = true →
    (new.clrN = true → chainReact old new .rck c = c.map fun d => { sh := d.sh, lt := d.sh }) ∧
    (new.clrN = false → chainReact old new .rck c = c.map fun _ => { sh := 0x00#8, lt := 0x00#8 })

/-- R42: with OE_n an output, a device shows its latch stage while OE_n is low and BLANK while it is high; with OE_n
not an output what it shows is a free value (log entry 14; nothing is stated of it but that each device has one). -/
def Obligations.OutputsAreGatedLatches : Prop :=
  ∀ s : State, s.outputs.length = s.chain.length ∧
    (s.dir.oeN = .out → s.lvl.oeN = false → s.outputs = s.chain.map fun d => .pattern d.lt) ∧
    (s.dir.oeN = .out → s.lvl.oeN = true → s.outputs = s.chain.map fun _ => .blank)

/-- R122: a wait changes no state but TRACE, which takes D(n), and the position; it is used in I6 with CFG_SETTLE and in
S2, S4 and S6 with CFG_DELAY. -/
def Obligations.WaitsOnlyRecord : Prop :=
  ∀ s : State,
    (s.seq = .init → s.stepReg = 6#3 →
      controllerStep s = { s with stepReg := 7#3, trace := s.trace ++ [.wait s.cfgSettle] }) ∧
    (s.seq = .shift → s.stepReg = 1#3 ∨ s.stepReg = 3#3 ∨ s.stepReg = 6#3 →
      controllerStep s = { s with stepReg := s.stepReg + 1#3, trace := s.trace ++ [.wait s.cfgDelay] })

/-! ### The premises of a run -/

/-- R5, R114: the machine after reset meets the premises of a run, no step breaks those on the wiring (the line binding
stays sound and N_DEV stays at least 1), and under them the five lines are five distinct physical pins. That the
premises hold at reset is the model's choice of a machine the spec speaks about (log entry 4); and that they outlast a
foreign binding, which breaks its run by a fault and not by them, and the return of power after it, is the model's
choice too (log entry 21). -/
def Obligations.WiredKeptByEveryStep : Prop :=
  Sound State.reset ∧ (∀ s t : State, Wired s → step s = .next t → Wired t) ∧
  (∀ s : State, Wired s → ∀ l m : Line, s.params.physicalPin l = s.params.physicalPin m → l = m)
end

