-- ==== Sys2Proof/Laws/State.lean ====
section
/-! SUPPORT. One lemma per field per update of State, true by unfolding, so that no later proof unfolds a record
update; and the laws of the five-line record. -/

namespace Sys2Proof.Machine

variable (s : State)

/-! ### emit -/

@[simp] theorem State.emit_seq (e : Event) : (s.emit e).seq = s.seq := rfl
@[simp] theorem State.emit_stepReg (e : Event) : (s.emit e).stepReg = s.stepReg := rfl
@[simp] theorem State.emit_bitIdx (e : Event) : (s.emit e).bitIdx = s.bitIdx := rfl
@[simp] theorem State.emit_dreg (e : Event) : (s.emit e).dreg = s.dreg := rfl
@[simp] theorem State.emit_cfgSettle (e : Event) : (s.emit e).cfgSettle = s.cfgSettle := rfl
@[simp] theorem State.emit_cfgDelay (e : Event) : (s.emit e).cfgDelay = s.cfgDelay := rfl
@[simp] theorem State.emit_dir (e : Event) : (s.emit e).dir = s.dir := rfl
@[simp] theorem State.emit_lvl (e : Event) : (s.emit e).lvl = s.lvl := rfl
@[simp] theorem State.emit_chain (e : Event) : (s.emit e).chain = s.chain := rfl
@[simp] theorem State.emit_trace (e : Event) : (s.emit e).trace = s.trace ++ [e] := rfl
@[simp] theorem State.emit_fault (e : Event) : (s.emit e).fault = s.fault := rfl
@[simp] theorem State.emit_params (e : Event) : (s.emit e).params = s.params := rfl
@[simp] theorem State.emit_cfgSettleIn (e : Event) : (s.emit e).cfgSettleIn = s.cfgSettleIn := rfl
@[simp] theorem State.emit_cfgDelayIn (e : Event) : (s.emit e).cfgDelayIn = s.cfgDelayIn := rfl
@[simp] theorem State.emit_host (e : Event) : (s.emit e).host = s.host := rfl
@[simp] theorem State.emit_free (e : Event) : (s.emit e).free = s.free := rfl

/-! ### setLevel -/

@[simp] theorem State.setLevel_seq (l : Line) (v : Level) : (s.setLevel l v).seq = s.seq := rfl
@[simp] theorem State.setLevel_stepReg (l : Line) (v : Level) : (s.setLevel l v).stepReg = s.stepReg := rfl
@[simp] theorem State.setLevel_bitIdx (l : Line) (v : Level) : (s.setLevel l v).bitIdx = s.bitIdx := rfl
@[simp] theorem State.setLevel_dreg (l : Line) (v : Level) : (s.setLevel l v).dreg = s.dreg := rfl
@[simp] theorem State.setLevel_cfgSettle (l : Line) (v : Level) : (s.setLevel l v).cfgSettle = s.cfgSettle := rfl
@[simp] theorem State.setLevel_cfgDelay (l : Line) (v : Level) : (s.setLevel l v).cfgDelay = s.cfgDelay := rfl
@[simp] theorem State.setLevel_dir (l : Line) (v : Level) : (s.setLevel l v).dir = s.dir := rfl
@[simp] theorem State.setLevel_lvl (l : Line) (v : Level) : (s.setLevel l v).lvl = s.lvl.set l v := rfl
@[simp] theorem State.setLevel_chain (l : Line) (v : Level) : (s.setLevel l v).chain = s.chain := rfl
@[simp] theorem State.setLevel_trace (l : Line) (v : Level) : (s.setLevel l v).trace = s.trace := rfl
@[simp] theorem State.setLevel_fault (l : Line) (v : Level) : (s.setLevel l v).fault = s.fault := rfl
@[simp] theorem State.setLevel_params (l : Line) (v : Level) : (s.setLevel l v).params = s.params := rfl
@[simp] theorem State.setLevel_cfgSettleIn (l : Line) (v : Level) : (s.setLevel l v).cfgSettleIn = s.cfgSettleIn := rfl
@[simp] theorem State.setLevel_cfgDelayIn (l : Line) (v : Level) : (s.setLevel l v).cfgDelayIn = s.cfgDelayIn := rfl
@[simp] theorem State.setLevel_host (l : Line) (v : Level) : (s.setLevel l v).host = s.host := rfl
@[simp] theorem State.setLevel_free (l : Line) (v : Level) : (s.setLevel l v).free = s.free := rfl

/-! ### setOut -/

@[simp] theorem State.setOut_seq (l : Line) : (s.setOut l).seq = s.seq := rfl
@[simp] theorem State.setOut_stepReg (l : Line) : (s.setOut l).stepReg = s.stepReg := rfl
@[simp] theorem State.setOut_bitIdx (l : Line) : (s.setOut l).bitIdx = s.bitIdx := rfl
@[simp] theorem State.setOut_dreg (l : Line) : (s.setOut l).dreg = s.dreg := rfl
@[simp] theorem State.setOut_cfgSettle (l : Line) : (s.setOut l).cfgSettle = s.cfgSettle := rfl
@[simp] theorem State.setOut_cfgDelay (l : Line) : (s.setOut l).cfgDelay = s.cfgDelay := rfl
@[simp] theorem State.setOut_dir (l : Line) : (s.setOut l).dir = s.dir.set l .out := rfl
@[simp] theorem State.setOut_lvl (l : Line) : (s.setOut l).lvl = s.lvl := rfl
@[simp] theorem State.setOut_chain (l : Line) : (s.setOut l).chain = s.chain := rfl
@[simp] theorem State.setOut_trace (l : Line) : (s.setOut l).trace = s.trace := rfl
@[simp] theorem State.setOut_fault (l : Line) : (s.setOut l).fault = s.fault := rfl
@[simp] theorem State.setOut_params (l : Line) : (s.setOut l).params = s.params := rfl
@[simp] theorem State.setOut_cfgSettleIn (l : Line) : (s.setOut l).cfgSettleIn = s.cfgSettleIn := rfl
@[simp] theorem State.setOut_cfgDelayIn (l : Line) : (s.setOut l).cfgDelayIn = s.cfgDelayIn := rfl
@[simp] theorem State.setOut_host (l : Line) : (s.setOut l).host = s.host := rfl
@[simp] theorem State.setOut_free (l : Line) : (s.setOut l).free = s.free := rfl

/-! ### setChain -/

@[simp] theorem State.setChain_seq (c : List Device) : (s.setChain c).seq = s.seq := rfl
@[simp] theorem State.setChain_stepReg (c : List Device) : (s.setChain c).stepReg = s.stepReg := rfl
@[simp] theorem State.setChain_bitIdx (c : List Device) : (s.setChain c).bitIdx = s.bitIdx := rfl
@[simp] theorem State.setChain_dreg (c : List Device) : (s.setChain c).dreg = s.dreg := rfl
@[simp] theorem State.setChain_cfgSettle (c : List Device) : (s.setChain c).cfgSettle = s.cfgSettle := rfl
@[simp] theorem State.setChain_cfgDelay (c : List Device) : (s.setChain c).cfgDelay = s.cfgDelay := rfl
@[simp] theorem State.setChain_dir (c : List Device) : (s.setChain c).dir = s.dir := rfl
@[simp] theorem State.setChain_lvl (c : List Device) : (s.setChain c).lvl = s.lvl := rfl
@[simp] theorem State.setChain_chain (c : List Device) : (s.setChain c).chain = c := rfl
@[simp] theorem State.setChain_trace (c : List Device) : (s.setChain c).trace = s.trace := rfl
@[simp] theorem State.setChain_fault (c : List Device) : (s.setChain c).fault = s.fault := rfl
@[simp] theorem State.setChain_params (c : List Device) : (s.setChain c).params = s.params := rfl
@[simp] theorem State.setChain_cfgSettleIn (c : List Device) : (s.setChain c).cfgSettleIn = s.cfgSettleIn := rfl
@[simp] theorem State.setChain_cfgDelayIn (c : List Device) : (s.setChain c).cfgDelayIn = s.cfgDelayIn := rfl
@[simp] theorem State.setChain_host (c : List Device) : (s.setChain c).host = s.host := rfl
@[simp] theorem State.setChain_free (c : List Device) : (s.setChain c).free = s.free := rfl

/-! ### drew -/

@[simp] theorem State.drew_seq (n : Nat) : (s.drew n).seq = s.seq := rfl
@[simp] theorem State.drew_stepReg (n : Nat) : (s.drew n).stepReg = s.stepReg := rfl
@[simp] theorem State.drew_bitIdx (n : Nat) : (s.drew n).bitIdx = s.bitIdx := rfl
@[simp] theorem State.drew_dreg (n : Nat) : (s.drew n).dreg = s.dreg := rfl
@[simp] theorem State.drew_cfgSettle (n : Nat) : (s.drew n).cfgSettle = s.cfgSettle := rfl
@[simp] theorem State.drew_cfgDelay (n : Nat) : (s.drew n).cfgDelay = s.cfgDelay := rfl
@[simp] theorem State.drew_dir (n : Nat) : (s.drew n).dir = s.dir := rfl
@[simp] theorem State.drew_lvl (n : Nat) : (s.drew n).lvl = s.lvl := rfl
@[simp] theorem State.drew_chain (n : Nat) : (s.drew n).chain = s.chain := rfl
@[simp] theorem State.drew_trace (n : Nat) : (s.drew n).trace = s.trace := rfl
@[simp] theorem State.drew_fault (n : Nat) : (s.drew n).fault = s.fault := rfl
@[simp] theorem State.drew_params (n : Nat) : (s.drew n).params = s.params := rfl
@[simp] theorem State.drew_cfgSettleIn (n : Nat) : (s.drew n).cfgSettleIn = s.cfgSettleIn := rfl
@[simp] theorem State.drew_cfgDelayIn (n : Nat) : (s.drew n).cfgDelayIn = s.cfgDelayIn := rfl
@[simp] theorem State.drew_host (n : Nat) : (s.drew n).host = s.host := rfl
@[simp] theorem State.drew_free (n : Nat) : (s.drew n).free = s.free + n := rfl

/-! ### setStep -/

@[simp] theorem State.setStep_seq (c : BitVec 3) : (s.setStep c).seq = s.seq := rfl
@[simp] theorem State.setStep_stepReg (c : BitVec 3) : (s.setStep c).stepReg = c := rfl
@[simp] theorem State.setStep_bitIdx (c : BitVec 3) : (s.setStep c).bitIdx = s.bitIdx := rfl
@[simp] theorem State.setStep_dreg (c : BitVec 3) : (s.setStep c).dreg = s.dreg := rfl
@[simp] theorem State.setStep_cfgSettle (c : BitVec 3) : (s.setStep c).cfgSettle = s.cfgSettle := rfl
@[simp] theorem State.setStep_cfgDelay (c : BitVec 3) : (s.setStep c).cfgDelay = s.cfgDelay := rfl
@[simp] theorem State.setStep_dir (c : BitVec 3) : (s.setStep c).dir = s.dir := rfl
@[simp] theorem State.setStep_lvl (c : BitVec 3) : (s.setStep c).lvl = s.lvl := rfl
@[simp] theorem State.setStep_chain (c : BitVec 3) : (s.setStep c).chain = s.chain := rfl
@[simp] theorem State.setStep_trace (c : BitVec 3) : (s.setStep c).trace = s.trace := rfl
@[simp] theorem State.setStep_fault (c : BitVec 3) : (s.setStep c).fault = s.fault := rfl
@[simp] theorem State.setStep_params (c : BitVec 3) : (s.setStep c).params = s.params := rfl
@[simp] theorem State.setStep_cfgSettleIn (c : BitVec 3) : (s.setStep c).cfgSettleIn = s.cfgSettleIn := rfl
@[simp] theorem State.setStep_cfgDelayIn (c : BitVec 3) : (s.setStep c).cfgDelayIn = s.cfgDelayIn := rfl
@[simp] theorem State.setStep_host (c : BitVec 3) : (s.setStep c).host = s.host := rfl
@[simp] theorem State.setStep_free (c : BitVec 3) : (s.setStep c).free = s.free := rfl

/-! ### setSeq -/

@[simp] theorem State.setSeq_seq (q : Seq) : (s.setSeq q).seq = q := rfl
@[simp] theorem State.setSeq_stepReg (q : Seq) : (s.setSeq q).stepReg = s.stepReg := rfl
@[simp] theorem State.setSeq_bitIdx (q : Seq) : (s.setSeq q).bitIdx = s.bitIdx := rfl
@[simp] theorem State.setSeq_dreg (q : Seq) : (s.setSeq q).dreg = s.dreg := rfl
@[simp] theorem State.setSeq_cfgSettle (q : Seq) : (s.setSeq q).cfgSettle = s.cfgSettle := rfl
@[simp] theorem State.setSeq_cfgDelay (q : Seq) : (s.setSeq q).cfgDelay = s.cfgDelay := rfl
@[simp] theorem State.setSeq_dir (q : Seq) : (s.setSeq q).dir = s.dir := rfl
@[simp] theorem State.setSeq_lvl (q : Seq) : (s.setSeq q).lvl = s.lvl := rfl
@[simp] theorem State.setSeq_chain (q : Seq) : (s.setSeq q).chain = s.chain := rfl
@[simp] theorem State.setSeq_trace (q : Seq) : (s.setSeq q).trace = s.trace := rfl
@[simp] theorem State.setSeq_fault (q : Seq) : (s.setSeq q).fault = s.fault := rfl
@[simp] theorem State.setSeq_params (q : Seq) : (s.setSeq q).params = s.params := rfl
@[simp] theorem State.setSeq_cfgSettleIn (q : Seq) : (s.setSeq q).cfgSettleIn = s.cfgSettleIn := rfl
@[simp] theorem State.setSeq_cfgDelayIn (q : Seq) : (s.setSeq q).cfgDelayIn = s.cfgDelayIn := rfl
@[simp] theorem State.setSeq_host (q : Seq) : (s.setSeq q).host = s.host := rfl
@[simp] theorem State.setSeq_free (q : Seq) : (s.setSeq q).free = s.free := rfl

/-! ### setBitIdx -/

@[simp] theorem State.setBitIdx_seq (i : BitVec 3) : (s.setBitIdx i).seq = s.seq := rfl
@[simp] theorem State.setBitIdx_stepReg (i : BitVec 3) : (s.setBitIdx i).stepReg = s.stepReg := rfl
@[simp] theorem State.setBitIdx_bitIdx (i : BitVec 3) : (s.setBitIdx i).bitIdx = i := rfl
@[simp] theorem State.setBitIdx_dreg (i : BitVec 3) : (s.setBitIdx i).dreg = s.dreg := rfl
@[simp] theorem State.setBitIdx_cfgSettle (i : BitVec 3) : (s.setBitIdx i).cfgSettle = s.cfgSettle := rfl
@[simp] theorem State.setBitIdx_cfgDelay (i : BitVec 3) : (s.setBitIdx i).cfgDelay = s.cfgDelay := rfl
@[simp] theorem State.setBitIdx_dir (i : BitVec 3) : (s.setBitIdx i).dir = s.dir := rfl
@[simp] theorem State.setBitIdx_lvl (i : BitVec 3) : (s.setBitIdx i).lvl = s.lvl := rfl
@[simp] theorem State.setBitIdx_chain (i : BitVec 3) : (s.setBitIdx i).chain = s.chain := rfl
@[simp] theorem State.setBitIdx_trace (i : BitVec 3) : (s.setBitIdx i).trace = s.trace := rfl
@[simp] theorem State.setBitIdx_fault (i : BitVec 3) : (s.setBitIdx i).fault = s.fault := rfl
@[simp] theorem State.setBitIdx_params (i : BitVec 3) : (s.setBitIdx i).params = s.params := rfl
@[simp] theorem State.setBitIdx_cfgSettleIn (i : BitVec 3) : (s.setBitIdx i).cfgSettleIn = s.cfgSettleIn := rfl
@[simp] theorem State.setBitIdx_cfgDelayIn (i : BitVec 3) : (s.setBitIdx i).cfgDelayIn = s.cfgDelayIn := rfl
@[simp] theorem State.setBitIdx_host (i : BitVec 3) : (s.setBitIdx i).host = s.host := rfl
@[simp] theorem State.setBitIdx_free (i : BitVec 3) : (s.setBitIdx i).free = s.free := rfl

/-! ### setHost -/

@[simp] theorem State.setHost_seq (h : List HostMove) : (s.setHost h).seq = s.seq := rfl
@[simp] theorem State.setHost_stepReg (h : List HostMove) : (s.setHost h).stepReg = s.stepReg := rfl
@[simp] theorem State.setHost_bitIdx (h : List HostMove) : (s.setHost h).bitIdx = s.bitIdx := rfl
@[simp] theorem State.setHost_dreg (h : List HostMove) : (s.setHost h).dreg = s.dreg := rfl
@[simp] theorem State.setHost_cfgSettle (h : List HostMove) : (s.setHost h).cfgSettle = s.cfgSettle := rfl
@[simp] theorem State.setHost_cfgDelay (h : List HostMove) : (s.setHost h).cfgDelay = s.cfgDelay := rfl
@[simp] theorem State.setHost_dir (h : List HostMove) : (s.setHost h).dir = s.dir := rfl
@[simp] theorem State.setHost_lvl (h : List HostMove) : (s.setHost h).lvl = s.lvl := rfl
@[simp] theorem State.setHost_chain (h : List HostMove) : (s.setHost h).chain = s.chain := rfl
@[simp] theorem State.setHost_trace (h : List HostMove) : (s.setHost h).trace = s.trace := rfl
@[simp] theorem State.setHost_fault (h : List HostMove) : (s.setHost h).fault = s.fault := rfl
@[simp] theorem State.setHost_params (h : List HostMove) : (s.setHost h).params = s.params := rfl
@[simp] theorem State.setHost_cfgSettleIn (h : List HostMove) : (s.setHost h).cfgSettleIn = s.cfgSettleIn := rfl
@[simp] theorem State.setHost_cfgDelayIn (h : List HostMove) : (s.setHost h).cfgDelayIn = s.cfgDelayIn := rfl
@[simp] theorem State.setHost_host (h : List HostMove) : (s.setHost h).host = h := rfl
@[simp] theorem State.setHost_free (h : List HostMove) : (s.setHost h).free = s.free := rfl

end Sys2Proof.Machine

namespace Sys2Proof

/-! ### One value per line -/

variable {α : Type} (p : PerLine α)

@[simp] theorem PerLine.get_sck : p.get .sck = p.sck := rfl
@[simp] theorem PerLine.get_ser : p.get .ser = p.ser := rfl
@[simp] theorem PerLine.get_rck : p.get .rck = p.rck := rfl
@[simp] theorem PerLine.get_clrN : p.get .clrN = p.clrN := rfl
@[simp] theorem PerLine.get_oeN : p.get .oeN = p.oeN := rfl

@[simp] theorem PerLine.get_of (f : Line → α) (l : Line) : (PerLine.of f).get l = f l := by
  cases l <;> rfl

@[simp] theorem PerLine.of_get : PerLine.of p.get = p := rfl

theorem PerLine.get_set (l m : Line) (v : α) : (p.set l v).get m = if m = l then v else p.get m := by
  cases l <;> cases m <;> rfl

@[simp] theorem PerLine.get_set_self (l : Line) (v : α) : (p.set l v).get l = v := by
  cases l <;> rfl

theorem PerLine.get_set_ne {l m : Line} (h : m ≠ l) (v : α) : (p.set l v).get m = p.get m := by
  rw [PerLine.get_set, if_neg h]

theorem PerLine.ext_get {p q : PerLine α} (h : ∀ l, p.get l = q.get l) : p = q := by
  cases p
  cases q
  exact PerLine.mk.injEq .. ▸ ⟨h .sck, h .ser, h .rck, h .clrN, h .oeN⟩

/-- Writing the value a line already has changes nothing: a level set is idempotent (20_memory.md R36, R48). -/
theorem PerLine.set_get (l : Line) : p.set l (p.get l) = p := by
  cases l <;> rfl

theorem PerLine.set_set (l : Line) (v w : α) : (p.set l v).set l w = p.set l w := by
  cases l <;> rfl

theorem Line.mem_all (l : Line) : l ∈ Line.all := by
  cases l <;> decide

end Sys2Proof
end

