-- ==== Sys2Proof/Laws/Chain.lean ====
section
/-! SUPPORT. What the reactions of the attached chain do: lengths, the clear, the shift of one cell and of a whole
byte, the latch (20_memory.md R38 to R44). -/

namespace Sys2Proof.Machine

/-! ### Lengths: N_DEV never changes -/

@[simp] theorem chainClear_length (c : List Device) : (chainClear c).length = c.length := by simp [chainClear]

@[simp] theorem chainLatch_length (c : List Device) : (chainLatch c).length = c.length := by simp [chainLatch]

@[simp] theorem chainShift_length (b : Level) (c : List Device) : (chainShift b c).length = c.length := by
  induction c generalizing b with
  | nil => rfl
  | cons d ds ih => simp [chainShift, ih]

@[simp] theorem freeChain_length (n : Nat) (c : List Device) : (freeChain n c).length = c.length := by
  induction c generalizing n with
  | nil => rfl
  | cons d ds ih => simp [freeChain, ih]

@[simp] theorem clearOrShift_length (old new : PerLine Level) (l : Line) (c : List Device) :
    (clearOrShift old new l c).length = c.length := by
  unfold clearOrShift
  split
  · exact chainClear_length c
  · split
    · exact chainShift_length _ c
    · rfl

@[simp] theorem chainReact_length (old new : PerLine Level) (l : Line) (c : List Device) :
    (chainReact old new l c).length = c.length := by
  unfold chainReact
  split <;> simp

/-! ### Clear -/

theorem chainClear_sh {c : List Device} {d : Device} (h : d ∈ chainClear c) : d.sh = 0x00#8 := by
  simp only [chainClear, List.mem_map] at h
  obtain ⟨e, -, rfl⟩ := h
  rfl

theorem chainClear_lt (c : List Device) : (chainClear c).map Device.lt = c.map Device.lt := by
  simp [chainClear]

theorem chainClear_of_clear {c : List Device} (h : ∀ d ∈ c, d.sh = 0x00#8) : chainClear c = c := by
  rw [chainClear, List.map_congr_left (g := id), List.map_id]
  intro d hd
  rw [← h d hd]
  rfl

/-! ### Latch -/

theorem chainLatch_lt (c : List Device) : (chainLatch c).map Device.lt = c.map Device.sh := by
  simp [chainLatch]

theorem chainLatch_sh (c : List Device) : (chainLatch c).map Device.sh = c.map Device.sh := by
  simp [chainLatch]

/-! ### Shift -/

/-- A shift leaves the latch stages. -/
theorem chainShift_lt (b : Level) (c : List Device) : (chainShift b c).map Device.lt = c.map Device.lt := by
  induction c generalizing b with
  | nil => rfl
  | cons d ds ih => simp [chainShift, ih]

/-- The shift stages after a shift depend on the shift stages alone. -/
theorem chainShift_sh_congr (b : Level) {c e : List Device} (h : c.map Device.sh = e.map Device.sh) :
    (chainShift b c).map Device.sh = (chainShift b e).map Device.sh := by
  induction c generalizing b e with
  | nil =>
    cases e with
    | nil => rfl
    | cons => simp at h
  | cons d ds ih =>
    cases e with
    | nil => simp at h
    | cons x xs =>
      simp only [List.map_cons, List.cons.injEq] at h
      simp only [chainShift, List.map_cons, h.1, ih _ h.2]

/-- The cells after one shift (20_memory.md R40). -/
theorem getLsbD_shiftCell (b : Level) (x : Byte) (i : Nat) :
    (shiftCell b x).getLsbD i = if i = 7 then b else x.getLsbD (i + 1) := by
  unfold shiftCell
  rw [BitVec.getLsbD_cons, BitVec.getLsbD_extractLsb']
  split
  · rfl
  · by_cases h : i < 7
    · simp [h, Nat.add_comm]
    · have : 8 ≤ i + 1 := by omega
      simp [h, BitVec.getLsbD_of_ge x (i + 1) this]

theorem getElem_shiftCell (b : Level) (x : Byte) (i : Nat) (h : i < 8) :
    (shiftCell b x)[i] = if i = 7 then b else x.getLsbD (i + 1) := by
  rw [← BitVec.getLsbD_eq_getElem, getLsbD_shiftCell]

/-- The chain after the levels `bs`, first level first, have been shifted in. -/
def shiftIn (bs : List Level) (c : List Device) : List Device := bs.foldl (fun c b => chainShift b c) c

theorem shiftIn_concat (bs : List Level) (b : Level) (c : List Device) :
    shiftIn (bs ++ [b]) c = chainShift b (shiftIn bs c) := by simp [shiftIn]

/-- The eight levels of a byte in the order of the wire, bit 0 first (20_memory.md R43). -/
def wireBits (v : Byte) : List Level := (List.range 8).map v.getLsbD

/-- What a byte sent down the chain does to the shift stages (20_memory.md R44): it stays in device 0, and each device
passes its old byte on to the next. -/
def passByte (v : Byte) : List Device → List Device
  | [] => []
  | d :: ds => { d with sh := v } :: passByte d.sh ds

/-- Eight shifts put the byte into device 0 and send its old bits on, bit 0 first. -/
theorem shiftIn_wireBits_cons (v : Byte) (d : Device) (ds : List Device) :
    shiftIn (wireBits v) (d :: ds) = { d with sh := v } :: shiftIn (wireBits d.sh) ds := by
  have key : shiftCell (v.getLsbD 7) (shiftCell (v.getLsbD 6) (shiftCell (v.getLsbD 5) (shiftCell (v.getLsbD 4)
      (shiftCell (v.getLsbD 3) (shiftCell (v.getLsbD 2) (shiftCell (v.getLsbD 1) (shiftCell (v.getLsbD 0) d.sh)))))))
      = v := by
    apply BitVec.eq_of_getLsbD_eq
    intro i hi
    interval_cases i <;> simp only [getLsbD_shiftCell, reduceIte, Nat.reduceAdd, Nat.reduceEqDiff]
  simp only [shiftIn, wireBits, List.range, List.range.loop, List.map_cons, List.map_nil, List.foldl_cons,
    List.foldl_nil, chainShift, getLsbD_shiftCell, key, reduceIte, Nat.reduceAdd, Nat.reduceEqDiff]

/-- A whole byte moves every byte one device along (20_memory.md R44). -/
theorem shiftIn_wireBits (v : Byte) (c : List Device) : shiftIn (wireBits v) c = passByte v c := by
  induction c generalizing v with
  | nil => rfl
  | cons d ds ih => rw [shiftIn_wireBits_cons, ih, passByte]

@[simp] theorem passByte_length (v : Byte) (c : List Device) : (passByte v c).length = c.length := by
  induction c generalizing v with
  | nil => rfl
  | cons d ds ih => simp [passByte, ih]

theorem passByte_lt (v : Byte) (c : List Device) : (passByte v c).map Device.lt = c.map Device.lt := by
  induction c generalizing v with
  | nil => rfl
  | cons d ds ih => simp [passByte, ih]

/-- The shift stages after a byte: the new byte, then the old bytes without the last (41_byteshift.md R92 (a)). -/
theorem passByte_sh (v : Byte) (c : List Device) :
    (passByte v c).map Device.sh = (v :: c.map Device.sh).take c.length := by
  induction c generalizing v with
  | nil => rfl
  | cons d ds ih => simp [passByte, ih]

end Sys2Proof.Machine
end

