-- ==== Sys2Proof/Laws/Ops.lean ====
section
/-! SUPPORT. What the line-binding premises say, and what the line primitives, the wait and the raise do: for each, every field it leaves, and what it does to the
others (20_memory.md R35, R36, R38; 60_exceptions.md R111, R122). -/

namespace Sys2Proof

/-! ### The line binding -/

theorem Params.physicalPin_inj {p : Params} {l m : Line} :
    p.physicalPin l = p.physicalPin m ↔ p.binding.get l = p.binding.get m := Config.pinOf.injective.eq_iff

/-- The premises of 60_exceptions.md R114 as said of physical pins: five distinct ones, none of them taken, each of them
drivable as an output. -/
theorem Params.bindingOk_iff (p : Params) : p.bindingOk = true ↔
    (∀ l m, p.physicalPin l = p.physicalPin m → l = m) ∧
    ∀ l h, p.physicalPin l = Config.pinOf h → h ∉ p.taken ∧ h ∉ p.notOutputs := by
  have hn : p.pins.Nodup ↔ ∀ l m, p.physicalPin l = p.physicalPin m → l = m := by
    simp only [Params.physicalPin_inj]
    exact ⟨fun h l m => List.inj_on_of_nodup_map h (Line.mem_all l) (Line.mem_all m),
      fun h => (show Line.all.Nodup by decide).map fun l m e => h l m e⟩
  have hf : (p.pins.all fun x => !p.taken.contains x && !p.notOutputs.contains x) = true ↔
      ∀ l h, p.physicalPin l = Config.pinOf h → h ∉ p.taken ∧ h ∉ p.notOutputs := by
    simp [Params.pins, Params.physicalPin, Line.mem_all]
  rw [Params.bindingOk, Bool.and_eq_true, decide_eq_true_iff, hn, hf]

end Sys2Proof

namespace Sys2Proof.Machine

/-! ### Raise -/

/-- A raise always answers a next state, which differs in FAULT alone (60_exceptions.md R111). -/
theorem raise_eq (f : Fault) (s : State) : raise f s = .next { s with fault := some (s.fault.getD f) } := rfl

/-! ### The wires -/

theorem State.allOut_iff (s : State) : s.allOut = true ↔ ∀ l, s.dir.get l = .out := by
  unfold State.allOut
  rw [beq_iff_eq]
  constructor
  · intro h l
    rw [h, PerLine.get_of]
  · intro h
    exact PerLine.ext_get fun l => by rw [h l, PerLine.get_of]

/-- Where all five lines are outputs the wires carry the level registers (10_state.md R22). -/
theorem State.pinsAt_allOut {s : State} (h : s.allOut = true) (n : Nat) : s.pinsAt n = s.lvl := by
  rw [State.allOut_iff] at h
  exact PerLine.ext_get fun l => by rw [State.pinsAt, PerLine.get_of, if_pos (h l)]

theorem State.pins_allOut {s : State} (h : s.allOut = true) : s.pins = s.lvl := State.pinsAt_allOut h _

theorem State.allOut_congr {s t : State} (h : t.dir = s.dir) : t.allOut = s.allOut := by
  unfold State.allOut
  rw [h]

@[simp] theorem State.setLevel_allOut (s : State) (l : Line) (v : Level) : (s.setLevel l v).allOut = s.allOut := rfl
@[simp] theorem State.emit_allOut (s : State) (e : Event) : (s.emit e).allOut = s.allOut := rfl
@[simp] theorem State.setChain_allOut (s : State) (c : List Device) : (s.setChain c).allOut = s.allOut := rfl
@[simp] theorem State.drew_allOut (s : State) (n : Nat) : (s.drew n).allOut = s.allOut := rfl
@[simp] theorem State.setStep_allOut (s : State) (c : BitVec 3) : (s.setStep c).allOut = s.allOut := rfl
@[simp] theorem State.setSeq_allOut (s : State) (q : Seq) : (s.setSeq q).allOut = s.allOut := rfl
@[simp] theorem State.setBitIdx_allOut (s : State) (i : BitVec 3) : (s.setBitIdx i).allOut = s.allOut := rfl
@[simp] theorem State.setHost_allOut (s : State) (h : List HostMove) : (s.setHost h).allOut = s.allOut := rfl

/-! ### The undriven wires after a step -/

@[simp] theorem redraw_seq (s : State) : (redraw s).seq = s.seq := rfl
@[simp] theorem redraw_stepReg (s : State) : (redraw s).stepReg = s.stepReg := rfl
@[simp] theorem redraw_bitIdx (s : State) : (redraw s).bitIdx = s.bitIdx := rfl
@[simp] theorem redraw_dreg (s : State) : (redraw s).dreg = s.dreg := rfl
@[simp] theorem redraw_cfgSettle (s : State) : (redraw s).cfgSettle = s.cfgSettle := rfl
@[simp] theorem redraw_cfgDelay (s : State) : (redraw s).cfgDelay = s.cfgDelay := rfl
@[simp] theorem redraw_dir (s : State) : (redraw s).dir = s.dir := rfl
@[simp] theorem redraw_lvl (s : State) : (redraw s).lvl = s.lvl := rfl
@[simp] theorem redraw_chain (s : State) : (redraw s).chain = s.chain := rfl
@[simp] theorem redraw_trace (s : State) : (redraw s).trace = s.trace := rfl
@[simp] theorem redraw_fault (s : State) : (redraw s).fault = s.fault := rfl
@[simp] theorem redraw_params (s : State) : (redraw s).params = s.params := rfl
@[simp] theorem redraw_cfgSettleIn (s : State) : (redraw s).cfgSettleIn = s.cfgSettleIn := rfl
@[simp] theorem redraw_cfgDelayIn (s : State) : (redraw s).cfgDelayIn = s.cfgDelayIn := rfl
@[simp] theorem redraw_host (s : State) : (redraw s).host = s.host := rfl
@[simp] theorem redraw_allOut (s : State) : (redraw s).allOut = s.allOut := rfl
@[simp] theorem redraw_busy (s : State) : (redraw s).busy = s.busy := rfl
@[simp] theorem redraw_constructed (s : State) : (redraw s).constructed = s.constructed := rfl

/-- Where all lines are outputs nothing is drawn. -/
theorem redraw_of_allOut {s : State} (h : s.allOut = true) : redraw s = s := by
  unfold redraw
  rw [h]
  rfl

/-- Where a line is not an output the next draw is a fresh one. -/
theorem redraw_free {s : State} (h : s.allOut = false) : (redraw s).free = s.free + 1 := by
  unfold redraw
  rw [h]
  rfl

/-- What the devices show once all lines are outputs (20_memory.md R42). -/
theorem State.outputs_allOut {s : State} (h : s.allOut = true) :
    s.outputs = if s.lvl.oeN then List.replicate s.chain.length .blank else s.chain.map fun d => .pattern d.lt := by
  have h' : s.dir.oeN = .out := (State.allOut_iff s).1 h .oeN
  cases ho : s.lvl.oeN <;> simp [State.outputs, h', ho]

/-! ### LineWrite -/

@[simp] theorem lineWrite_seq (l : Line) (v : Level) (s : State) : (lineWrite l v s).seq = s.seq := rfl
@[simp] theorem lineWrite_stepReg (l : Line) (v : Level) (s : State) : (lineWrite l v s).stepReg = s.stepReg := rfl
@[simp] theorem lineWrite_bitIdx (l : Line) (v : Level) (s : State) : (lineWrite l v s).bitIdx = s.bitIdx := rfl
@[simp] theorem lineWrite_dreg (l : Line) (v : Level) (s : State) : (lineWrite l v s).dreg = s.dreg := rfl
@[simp] theorem lineWrite_cfgSettle (l : Line) (v : Level) (s : State) : (lineWrite l v s).cfgSettle = s.cfgSettle := rfl
@[simp] theorem lineWrite_cfgDelay (l : Line) (v : Level) (s : State) : (lineWrite l v s).cfgDelay = s.cfgDelay := rfl
@[simp] theorem lineWrite_dir (l : Line) (v : Level) (s : State) : (lineWrite l v s).dir = s.dir := rfl
@[simp] theorem lineWrite_fault (l : Line) (v : Level) (s : State) : (lineWrite l v s).fault = s.fault := rfl
@[simp] theorem lineWrite_params (l : Line) (v : Level) (s : State) : (lineWrite l v s).params = s.params := rfl
@[simp] theorem lineWrite_cfgSettleIn (l : Line) (v : Level) (s : State) : (lineWrite l v s).cfgSettleIn = s.cfgSettleIn := rfl
@[simp] theorem lineWrite_cfgDelayIn (l : Line) (v : Level) (s : State) : (lineWrite l v s).cfgDelayIn = s.cfgDelayIn := rfl
@[simp] theorem lineWrite_host (l : Line) (v : Level) (s : State) : (lineWrite l v s).host = s.host := rfl

@[simp] theorem lineWrite_lvl (l : Line) (v : Level) (s : State) : (lineWrite l v s).lvl = s.lvl.set l v := rfl
@[simp] theorem lineWrite_trace (l : Line) (v : Level) (s : State) :
    (lineWrite l v s).trace = s.trace ++ [.write l v] := rfl
@[simp] theorem lineWrite_allOut (l : Line) (v : Level) (s : State) : (lineWrite l v s).allOut = s.allOut := rfl

theorem lineWrite_free (l : Line) (v : Level) (s : State) :
    (lineWrite l v s).free = s.free + (if s.allOut then 0 else 2) := rfl

theorem lineWrite_chain (l : Line) (v : Level) (s : State) :
    (lineWrite l v s).chain =
      chainReact (s.pinsAt s.free) ((s.setLevel l v).pinsAt (s.free + 1)) l s.chain := rfl

@[simp] theorem lineWrite_chain_length (l : Line) (v : Level) (s : State) :
    (lineWrite l v s).chain.length = s.chain.length := by simp [lineWrite_chain]

/-- The effect of a LineWrite where all lines are outputs: everything it can do (20_memory.md R36). -/
theorem lineWrite_driven {s : State} (h : s.allOut = true) (l : Line) (v : Level) :
    lineWrite l v s = { s with
      lvl := s.lvl.set l v
      chain := chainReact s.lvl (s.lvl.set l v) l s.chain
      trace := s.trace ++ [.write l v] } := by
  have hn : (s.setLevel l v).pinsAt (s.free + 1) = s.lvl.set l v := State.pinsAt_allOut (s := s.setLevel l v) h _
  simp only [lineWrite, State.pinsAt_allOut h, hn, h, reduceIte]
  rfl

/-! ### The reactions of the chain, case by case (20_memory.md R38) -/

/-- CLR_n low: the shift stages are cleared, whatever the line. -/
theorem chainReact_clear {new : PerLine Level} (h : new.clrN = false) (old : PerLine Level) (l : Line)
    (c : List Device) (hl : ¬ (l = .rck ∧ rising old new .rck = true)) : chainReact old new l c = chainClear c := by
  unfold chainReact clearOrShift
  rw [if_neg hl, if_pos h]

/-- A rising SCK with CLR_n high: the chain shifts. -/
theorem chainReact_shift {old new : PerLine Level} (h : new.clrN = true) (h0 : old.sck = false) (h1 : new.sck = true)
    (c : List Device) : chainReact old new .sck c = chainShift new.ser c := by
  simp [chainReact, clearOrShift, rising, h, h0, h1]

/-- A rising RCK with CLR_n high: the chain latches. -/
theorem chainReact_latch {old new : PerLine Level} (h : new.clrN = true) (h0 : old.rck = false) (h1 : new.rck = true)
    (c : List Device) : chainReact old new .rck c = chainLatch c := by
  simp [chainReact, clearOrShift, rising, h, h0, h1]

/-- CLR_n high and no rising clock: the chain does not react. -/
theorem chainReact_none {old new : PerLine Level} (h : new.clrN = true) (l : Line) (c : List Device)
    (hs : ¬ (l = .sck ∧ rising old new .sck = true)) (hr : ¬ (l = .rck ∧ rising old new .rck = true)) :
    chainReact old new l c = c := by
  unfold chainReact clearOrShift
  rw [if_neg hr, if_neg (by simp [h]), if_neg hs]

/-- The latch stages change on a rising RCK alone. -/
theorem chainReact_lt {old new : PerLine Level} {l : Line} (h : ¬ (l = .rck ∧ rising old new .rck = true))
    (c : List Device) : (chainReact old new l c).map Device.lt = c.map Device.lt := by
  unfold chainReact clearOrShift
  rw [if_neg h]
  split
  · exact chainClear_lt c
  · split
    · exact chainShift_lt _ c
    · rfl

/-! ### LineConfig -/

/-- An output stays as it is (20_memory.md R35). -/
theorem lineConfig_out {s : State} {l : Line} (h : s.dir.get l = .out) : lineConfig l s = s := if_pos h

/-- An undriven line becomes an output and the contents of the chain become free values (20_memory.md R35). -/
theorem lineConfig_undriven {s : State} {l : Line} (h : s.dir.get l = .undriven) :
    lineConfig l s = { s with
      dir := s.dir.set l .out
      chain := freeChain s.free s.chain
      free := s.free + 2 * s.chain.length
      trace := s.trace ++ [.config l] } := by
  unfold lineConfig
  rw [if_neg (by rw [h]; decide)]
  rfl

theorem lineConfig_dir (l : Line) (s : State) : (lineConfig l s).dir = s.dir.set l .out := by
  unfold lineConfig
  split
  · rename_i h
    exact h ▸ (PerLine.set_get _ l).symm
  · rfl

/-- The events of one LineConfig (20_memory.md R35). -/
theorem lineConfig_trace (l : Line) (s : State) :
    (lineConfig l s).trace = s.trace ++ (if s.dir.get l = .out then [] else [.config l]) := by
  unfold lineConfig
  split <;> simp

@[simp] theorem lineConfig_chain_length (l : Line) (s : State) :
    (lineConfig l s).chain.length = s.chain.length := by
  unfold lineConfig
  split <;> simp

@[simp] theorem lineConfig_seq (l : Line) (s : State) : (lineConfig l s).seq = s.seq := by unfold lineConfig; split <;> rfl
@[simp] theorem lineConfig_stepReg (l : Line) (s : State) : (lineConfig l s).stepReg = s.stepReg := by unfold lineConfig; split <;> rfl
@[simp] theorem lineConfig_bitIdx (l : Line) (s : State) : (lineConfig l s).bitIdx = s.bitIdx := by unfold lineConfig; split <;> rfl
@[simp] theorem lineConfig_dreg (l : Line) (s : State) : (lineConfig l s).dreg = s.dreg := by unfold lineConfig; split <;> rfl
@[simp] theorem lineConfig_cfgSettle (l : Line) (s : State) : (lineConfig l s).cfgSettle = s.cfgSettle := by unfold lineConfig; split <;> rfl
@[simp] theorem lineConfig_cfgDelay (l : Line) (s : State) : (lineConfig l s).cfgDelay = s.cfgDelay := by unfold lineConfig; split <;> rfl
@[simp] theorem lineConfig_fault (l : Line) (s : State) : (lineConfig l s).fault = s.fault := by unfold lineConfig; split <;> rfl
@[simp] theorem lineConfig_params (l : Line) (s : State) : (lineConfig l s).params = s.params := by unfold lineConfig; split <;> rfl
@[simp] theorem lineConfig_cfgSettleIn (l : Line) (s : State) : (lineConfig l s).cfgSettleIn = s.cfgSettleIn := by unfold lineConfig; split <;> rfl
@[simp] theorem lineConfig_cfgDelayIn (l : Line) (s : State) : (lineConfig l s).cfgDelayIn = s.cfgDelayIn := by unfold lineConfig; split <;> rfl
@[simp] theorem lineConfig_host (l : Line) (s : State) : (lineConfig l s).host = s.host := by unfold lineConfig; split <;> rfl
@[simp] theorem lineConfig_lvl (l : Line) (s : State) : (lineConfig l s).lvl = s.lvl := by unfold lineConfig; split <;> rfl

theorem lineConfig_free_le (l : Line) (s : State) : s.free ≤ (lineConfig l s).free := by
  unfold lineConfig
  split
  · exact le_refl _
  · exact Nat.le_add_right _ _

/-! ### Micro-step I0 -/

@[simp] theorem configAll_seq (s : State) : (configAll s).seq = s.seq := by simp [configAll, Line.all]
@[simp] theorem configAll_stepReg (s : State) : (configAll s).stepReg = s.stepReg := by simp [configAll, Line.all]
@[simp] theorem configAll_bitIdx (s : State) : (configAll s).bitIdx = s.bitIdx := by simp [configAll, Line.all]
@[simp] theorem configAll_dreg (s : State) : (configAll s).dreg = s.dreg := by simp [configAll, Line.all]
@[simp] theorem configAll_cfgSettle (s : State) : (configAll s).cfgSettle = s.cfgSettle := by simp [configAll, Line.all]
@[simp] theorem configAll_cfgDelay (s : State) : (configAll s).cfgDelay = s.cfgDelay := by simp [configAll, Line.all]
@[simp] theorem configAll_fault (s : State) : (configAll s).fault = s.fault := by simp [configAll, Line.all]
@[simp] theorem configAll_params (s : State) : (configAll s).params = s.params := by simp [configAll, Line.all]
@[simp] theorem configAll_cfgSettleIn (s : State) : (configAll s).cfgSettleIn = s.cfgSettleIn := by simp [configAll, Line.all]
@[simp] theorem configAll_cfgDelayIn (s : State) : (configAll s).cfgDelayIn = s.cfgDelayIn := by simp [configAll, Line.all]
@[simp] theorem configAll_host (s : State) : (configAll s).host = s.host := by simp [configAll, Line.all]
@[simp] theorem configAll_lvl (s : State) : (configAll s).lvl = s.lvl := by simp [configAll, Line.all]

@[simp] theorem configAll_chain_length (s : State) : (configAll s).chain.length = s.chain.length := by
  simp [configAll, Line.all]

theorem configAll_free_le (s : State) : s.free ≤ (configAll s).free := by
  simp only [configAll, Line.all, List.foldl_cons, List.foldl_nil]
  exact (lineConfig_free_le _ _).trans ((lineConfig_free_le _ _).trans ((lineConfig_free_le _ _).trans
    ((lineConfig_free_le _ _).trans (lineConfig_free_le _ _))))

/-- After I0 all five lines are outputs (10_state.md R20). -/
@[simp] theorem configAll_allOut (s : State) : (configAll s).allOut = true := by
  rw [State.allOut_iff]
  intro l
  simp only [configAll, Line.all, List.foldl_cons, List.foldl_nil, lineConfig_dir]
  cases l <;> rfl

/-- On a block that is already constructed I0 has no effect (40_construct.md R81 (e)). -/
theorem configAll_of_allOut {s : State} (h : s.allOut = true) : configAll s = s := by
  rw [State.allOut_iff] at h
  simp [configAll, Line.all, lineConfig_out, h]

/-- The events of I0: one for each line that was not an output, in index order (20_memory.md R35). -/
theorem configAll_trace (s : State) :
    (configAll s).trace = s.trace ++ (Line.all.filter fun l => s.dir.get l != .out).map .config := by
  simp only [configAll, Line.all, List.foldl_cons, List.foldl_nil, lineConfig_trace, lineConfig_dir,
    List.append_assoc, List.filter_cons, List.filter_nil]
  simp only [PerLine.get_set, reduceCtorEq, reduceIte, bne_iff_ne, ne_eq]
  by_cases h0 : s.dir.get .sck = .out <;> by_cases h1 : s.dir.get .ser = .out <;>
    by_cases h2 : s.dir.get .rck = .out <;> by_cases h3 : s.dir.get .clrN = .out <;>
    by_cases h4 : s.dir.get .oeN = .out <;> simp_all

/-! ### The codes of the micro-steps (10_state.md R12) -/

theorem stepReg_cases (c : BitVec 3) :
    c = 0#3 ∨ c = 1#3 ∨ c = 2#3 ∨ c = 3#3 ∨ c = 4#3 ∨ c = 5#3 ∨ c = 6#3 ∨ c = 7#3 := by revert c; decide

/-- When RCK is raised (41_byteshift.md R91). -/
theorem latchNow_iff (m : LatchMode) (i : BitVec 3) : latchNow m i = true ↔ m = .perBit ∨ i = 7#3 := by
  simp [latchNow]

theorem initStepOf_code (m : InitStep) : initStepOf m.code = m := by cases m <;> rfl

theorem shiftStepOf_code (m : ShiftStep) : shiftStepOf m.code = m := by cases m <;> rfl

theorem code_initStepOf (c : BitVec 3) : (initStepOf c).code = c := by revert c; decide

theorem code_shiftStepOf (c : BitVec 3) : (shiftStepOf c).code = c := by revert c; decide

end Sys2Proof.Machine
end

