-- ==== Sys2Proof/Laws/Step.lean ====
section
/-! SUPPORT. What one command, one micro-step and one step of the machine can do, said once: inversion lemmas for `exec`
and `step`, the frame of the controller, and how a run of steps unfolds. -/

namespace Sys2Proof.Machine

/-! ### The flags -/

theorem busy_iff (s : State) : s.busy = true ↔ s.seq = .init ∨ s.seq = .shift := by
  unfold State.busy
  cases s.seq <;> simp

theorem busy_false_iff (s : State) : s.busy = false ↔ s.seq = .unconstructed ∨ s.seq = .idle := by
  unfold State.busy
  cases s.seq <;> simp

theorem busy_congr {s t : State} (h : t.seq = s.seq) : t.busy = s.busy := by
  unfold State.busy
  rw [h]

theorem constructed_iff (s : State) : s.constructed = true ↔ s.seq = .idle ∨ s.seq = .shift := by
  unfold State.constructed
  cases s.seq <;> simp

/-! ### Commands -/

/-- Everything a command can do: it faults (busy, or before CONSTRUCT), or takes its effect in a state that allows it. -/
theorem exec_cases {i : Instr} {s t : State} (h : exec i s = .next t) :
    (∃ f, (s.busy = true ∨ s.seq = .unconstructed) ∧ t = { s with fault := some (s.fault.getD f) }) ∨
    (∃ d, i = .construct d ∧ s.busy = false ∧ t = beginConstruct s) ∨
    (∃ d, i = .byteShift d ∧ s.seq = .idle ∧ t = beginByteShift d s) ∨
    (∃ d, i = .enableOutput d ∧ s.seq = .idle ∧ t = lineWrite .oeN false s) ∨
    (∃ d, i = .disableOutput d ∧ s.seq = .idle ∧ t = lineWrite .oeN true s) := by
  have idle : s.busy = false → s.seq ≠ .unconstructed → s.seq = .idle := by
    intro hb hu
    exact ((busy_false_iff s).1 hb).resolve_left hu
  by_cases hb : s.busy = true
  · refine .inl ⟨.cmdWhileBusy, .inl hb, ?_⟩
    cases i <;>
      simp only [exec, execConstruct, execByteShift, execEnableOutput, execDisableOutput, whenReady, whenConstructed,
        hb, reduceIte, raise_eq, Host.Outcome.next.injEq] at h <;> exact h.symm
  · have hb' : s.busy = false := by simpa using hb
    cases i with
    | construct d =>
      simp only [exec, execConstruct, whenReady, hb', Bool.false_eq_true, reduceIte, Host.Outcome.next.injEq] at h
      exact .inr (.inl ⟨d, rfl, hb', h.symm⟩)
    | byteShift d =>
      simp only [exec, execByteShift, whenConstructed, hb', Bool.false_eq_true, reduceIte, raise_eq] at h
      split at h <;> rename_i hu <;> simp only [Host.Outcome.next.injEq] at h
      · exact .inl ⟨_, .inr hu, h.symm⟩
      · exact .inr (.inr (.inl ⟨d, rfl, idle hb' hu, h.symm⟩))
    | enableOutput d =>
      simp only [exec, execEnableOutput, whenConstructed, hb', Bool.false_eq_true, reduceIte, raise_eq] at h
      split at h <;> rename_i hu <;> simp only [Host.Outcome.next.injEq] at h
      · exact .inl ⟨_, .inr hu, h.symm⟩
      · exact .inr (.inr (.inr (.inl ⟨d, rfl, idle hb' hu, h.symm⟩)))
    | disableOutput d =>
      simp only [exec, execDisableOutput, whenConstructed, hb', Bool.false_eq_true, reduceIte, raise_eq] at h
      split at h <;> rename_i hu <;> simp only [Host.Outcome.next.injEq] at h
      · exact .inl ⟨_, .inr hu, h.symm⟩
      · exact .inr (.inr (.inr (.inr ⟨d, rfl, idle hb' hu, h.symm⟩)))

/-- A command always answers a next state. -/
theorem exec_total (i : Instr) (s : State) : ∃ t, exec i s = .next t := by
  cases i <;>
    simp only [exec, execConstruct, execByteShift, execEnableOutput, execDisableOutput, whenReady, whenConstructed,
      raise_eq] <;> repeat' split
  all_goals exact ⟨_, rfl⟩

/-- While BUSY = 1 every command goes to the busy fault (60_exceptions.md R112). -/
theorem exec_of_busy (i : Instr) {s : State} (h : s.busy = true) : exec i s = raise .cmdWhileBusy s := by
  cases i <;>
    simp only [exec, execConstruct, execByteShift, execEnableOutput, execDisableOutput, whenReady, whenConstructed, h,
      reduceIte]

/-- Before CONSTRUCT every other command goes to the second fault (60_exceptions.md R113). -/
theorem exec_of_unconstructed {i : Instr} {s : State} (h : s.seq = .unconstructed) (hi : ∀ d, i ≠ .construct d) :
    exec i s = raise .useBeforeConstruct s := by
  have hb : s.busy = false := (busy_false_iff s).2 (.inl h)
  cases i with
  | construct d => exact absurd rfl (hi d)
  | byteShift d =>
    simp only [exec, execByteShift, whenConstructed, hb, h, Bool.false_eq_true, reduceIte]
  | enableOutput d =>
    simp only [exec, execEnableOutput, whenConstructed, hb, h, Bool.false_eq_true, reduceIte]
  | disableOutput d =>
    simp only [exec, execDisableOutput, whenConstructed, hb, h, Bool.false_eq_true, reduceIte]

/-- The effect that a command takes in IDLE (30_encoding.md R66). -/
def idleEffect : Instr → State → State
  | .construct _, s => beginConstruct s
  | .byteShift d, s => beginByteShift d s
  | .enableOutput _, s => lineWrite .oeN false s
  | .disableOutput _, s => lineWrite .oeN true s

/-- In IDLE every command takes its effect. -/
theorem exec_of_idle (i : Instr) {s : State} (h : s.seq = .idle) : exec i s = .next (idleEffect i s) := by
  have hb : s.busy = false := (busy_false_iff s).2 (.inr h)
  cases i <;>
    simp only [exec, execConstruct, execByteShift, execEnableOutput, execDisableOutput, whenReady, whenConstructed, hb,
      h, Bool.false_eq_true, reduceIte, reduceCtorEq, idleEffect]

/-- CONSTRUCT takes its effect whenever BUSY = 0. -/
theorem exec_construct (d : Byte) {s : State} (h : s.busy = false) :
    exec (.construct d) s = .next (beginConstruct s) := by
  simp only [exec, execConstruct, whenReady, h, Bool.false_eq_true, reduceIte]

/-! ### Micro-steps -/

theorem controllerStep_init {s : State} (h : s.seq = .init) :
    controllerStep s = initMicroStep (initStepOf s.stepReg) s := by simp [controllerStep, h]

theorem controllerStep_shift {s : State} (h : s.seq = .shift) :
    controllerStep s = shiftMicroStep (shiftStepOf s.stepReg) s := by simp [controllerStep, h]

theorem controllerStep_idle {s : State} (h : s.busy = false) : controllerStep s = s := by
  rcases (busy_false_iff s).1 h with h | h <;> simp [controllerStep, h]

/-! The fields no micro-step writes (10_state.md R13). -/

@[simp] theorem controllerStep_dreg (s : State) : (controllerStep s).dreg = s.dreg := by
  unfold controllerStep
  split
  · unfold initMicroStep
    split <;> simp [waitTicks]
  · unfold shiftMicroStep
    split <;> simp only [nextBit, waitTicks, State.setStep_dreg, State.emit_dreg, lineWrite_dreg]
    · split <;> rfl
    · split <;> rfl
  · rfl
  · rfl

@[simp] theorem controllerStep_cfgSettle (s : State) : (controllerStep s).cfgSettle = s.cfgSettle := by
  unfold controllerStep
  split
  · unfold initMicroStep
    split <;> simp [waitTicks]
  · unfold shiftMicroStep
    split <;> simp only [nextBit, waitTicks, State.setStep_cfgSettle, State.emit_cfgSettle, lineWrite_cfgSettle]
    · split <;> rfl
    · split <;> rfl
  · rfl
  · rfl

@[simp] theorem controllerStep_cfgDelay (s : State) : (controllerStep s).cfgDelay = s.cfgDelay := by
  unfold controllerStep
  split
  · unfold initMicroStep
    split <;> simp [waitTicks]
  · unfold shiftMicroStep
    split <;> simp only [nextBit, waitTicks, State.setStep_cfgDelay, State.emit_cfgDelay, lineWrite_cfgDelay]
    · split <;> rfl
    · split <;> rfl
  · rfl
  · rfl

@[simp] theorem controllerStep_fault (s : State) : (controllerStep s).fault = s.fault := by
  unfold controllerStep
  split
  · unfold initMicroStep
    split <;> simp [waitTicks]
  · unfold shiftMicroStep
    split <;> simp only [nextBit, waitTicks, State.setStep_fault, State.emit_fault, lineWrite_fault]
    · split <;> rfl
    · split <;> rfl
  · rfl
  · rfl

@[simp] theorem controllerStep_params (s : State) : (controllerStep s).params = s.params := by
  unfold controllerStep
  split
  · unfold initMicroStep
    split <;> simp [waitTicks]
  · unfold shiftMicroStep
    split <;> simp only [nextBit, waitTicks, State.setStep_params, State.emit_params, lineWrite_params]
    · split <;> rfl
    · split <;> rfl
  · rfl
  · rfl

@[simp] theorem controllerStep_cfgSettleIn (s : State) : (controllerStep s).cfgSettleIn = s.cfgSettleIn := by
  unfold controllerStep
  split
  · unfold initMicroStep
    split <;> simp [waitTicks]
  · unfold shiftMicroStep
    split <;> simp only [nextBit, waitTicks, State.setStep_cfgSettleIn, State.emit_cfgSettleIn, lineWrite_cfgSettleIn]
    · split <;> rfl
    · split <;> rfl
  · rfl
  · rfl

@[simp] theorem controllerStep_cfgDelayIn (s : State) : (controllerStep s).cfgDelayIn = s.cfgDelayIn := by
  unfold controllerStep
  split
  · unfold initMicroStep
    split <;> simp [waitTicks]
  · unfold shiftMicroStep
    split <;> simp only [nextBit, waitTicks, State.setStep_cfgDelayIn, State.emit_cfgDelayIn, lineWrite_cfgDelayIn]
    · split <;> rfl
    · split <;> rfl
  · rfl
  · rfl

@[simp] theorem controllerStep_host (s : State) : (controllerStep s).host = s.host := by
  unfold controllerStep
  split
  · unfold initMicroStep
    split <;> simp [waitTicks]
  · unfold shiftMicroStep
    split <;> simp only [nextBit, waitTicks, State.setStep_host, State.emit_host, lineWrite_host]
    · split <;> rfl
    · split <;> rfl
  · rfl
  · rfl

@[simp] theorem controllerStep_chain_length (s : State) : (controllerStep s).chain.length = s.chain.length := by
  unfold controllerStep
  split
  · unfold initMicroStep
    split <;> simp [waitTicks]
  · unfold shiftMicroStep
    split <;> simp only [nextBit, waitTicks, State.setStep_chain, State.emit_chain, lineWrite_chain_length]
    · split <;> simp
    · split <;> simp
  · rfl
  · rfl

theorem lineWrite_setHost (l : Line) (v : Level) (s : State) (h : List HostMove) :
    lineWrite l v (s.setHost h) = (lineWrite l v s).setHost h := rfl

theorem lineConfig_setHost (l : Line) (s : State) (h : List HostMove) :
    lineConfig l (s.setHost h) = (lineConfig l s).setHost h := by
  unfold lineConfig
  rw [State.setHost_dir]
  split <;> rfl

theorem configAll_setHost (s : State) (h : List HostMove) : configAll (s.setHost h) = (configAll s).setHost h := by
  simp only [configAll, Line.all, List.foldl_cons, List.foldl_nil, lineConfig_setHost]

/-- The controller does not look at the moves of the host. -/
theorem controllerStep_setHost (s : State) (h : List HostMove) :
    controllerStep (s.setHost h) = (controllerStep s).setHost h := by
  cases hq : s.seq with
  | init =>
    rw [controllerStep_init (s := s.setHost h) hq, controllerStep_init hq, State.setHost_stepReg]
    cases initStepOf s.stepReg <;> simp only [initMicroStep, configAll_setHost, lineWrite_setHost] <;> rfl
  | shift =>
    rw [controllerStep_shift (s := s.setHost h) hq, controllerStep_shift hq, State.setHost_stepReg]
    cases shiftStepOf s.stepReg with
    | s5b =>
      by_cases hl : latchNow s.params.latchMode s.bitIdx = true <;>
        simp only [shiftMicroStep, lineWrite_setHost, State.setHost_params, State.setHost_bitIdx, hl,
          Bool.false_eq_true, reduceIte] <;> rfl
    | s7 =>
      by_cases hl : s.bitIdx = 7#3 <;>
        simp only [shiftMicroStep, nextBit, lineWrite_setHost, State.setHost_bitIdx, lineWrite_bitIdx, hl,
          reduceIte] <;> rfl
    | _ => rfl
  | idle => rw [controllerStep_idle (by simp [State.busy, hq]), controllerStep_idle (by simp [State.busy, hq])]
  | unconstructed => rw [controllerStep_idle (by simp [State.busy, hq]), controllerStep_idle (by simp [State.busy, hq])]

/-! ### The move of a step -/

theorem move_powerCycle {s : State} {rest : List HostMove} (h : s.host = .powerCycle :: rest) :
    move s = .next (powerOn (s.setHost rest)) := by
  simp [move, h]

theorem move_keepsPower {s : State} (h : keepsPower s = true) : move s = runStep s := by
  unfold keepsPower at h
  unfold move
  split <;> simp_all

theorem move_faulted {s : State} {f : Fault} (h : keepsPower s = true) (hf : s.fault = some f) : move s = .fault f := by
  rw [move_keepsPower h]
  simp [runStep, hf]

theorem move_unbound {s : State} (h : keepsPower s = true) (hf : s.fault = none) (hb : s.params.bindingOk = false) :
    move s = raise .lineBinding s := by
  rw [move_keepsPower h]
  simp [runStep, hf, hb]

theorem move_live {s : State} (h : keepsPower s = true) (hf : s.fault = none) (hb : s.params.bindingOk = true) :
    move s = hostOrController s := by
  rw [move_keepsPower h]
  simp [runStep, hf, hb]

/-- The controller's turn is a micro-step while BUSY = 1, and nothing otherwise (10_state.md R13). -/
theorem controllerTurn_cases {s t : State} (rest : List HostMove) (h : controllerTurn (s.setHost rest) = .next t) :
    (s.busy = true ∧ t = (controllerStep s).setHost rest) ∨ (s.busy = false ∧ t = s.setHost rest) := by
  rw [controllerTurn, controllerStep_setHost, Host.Outcome.next.injEq] at h
  cases hb : s.busy with
  | true => exact .inl ⟨rfl, h.symm⟩
  | false =>
    rw [controllerStep_idle hb] at h
    exact .inr ⟨rfl, h.symm⟩

/-- Everything the move of a step can do. -/
theorem move_cases {s t : State} (h : move s = .next t) :
    (∃ rest, s.host = .powerCycle :: rest ∧ t = powerOn (s.setHost rest)) ∨
    (keepsPower s = true ∧ s.fault = none ∧ ∃ f rest, t = { s with fault := some f, host := rest }) ∨
    (keepsPower s = true ∧ s.fault = none ∧ s.params.bindingOk = true ∧ controllerMoves s = true ∧ s.busy = true ∧
      issued s = none ∧ ∃ rest, t = (controllerStep s).setHost rest) ∨
    (keepsPower s = true ∧ s.fault = none ∧ s.params.bindingOk = true ∧ s.busy = false ∧ issued s = none ∧
      ∃ rest, t = s.setHost rest) ∨
    (keepsPower s = true ∧ s.fault = none ∧ s.params.bindingOk = true ∧
      ∃ i rest, issued s = some i ∧ exec i (s.setHost rest) = .next t) ∨
    (keepsPower s = true ∧ s.fault = none ∧ s.params.bindingOk = true ∧ issued s = none ∧
      ∃ a b rest, t = { s with cfgSettleIn := a, cfgDelayIn := b, host := rest }) := by
  by_cases hp : keepsPower s = true
  · right
    obtain hf | ⟨f, hf⟩ := Option.eq_none_or_eq_some s.fault
    · by_cases hb : s.params.bindingOk = true
      · rw [move_live hp hf hb] at h
        have same : s.setHost s.host = s := rfl
        unfold hostOrController at h
        split at h <;> rename_i hh
        · rw [← same] at h
          rcases controllerTurn_cases s.host h with ⟨hy, ht⟩ | ⟨hy, ht⟩
          · exact .inr (.inl ⟨hp, hf, hb, by simp [controllerMoves, hh, hy], hy, by simp [issued, hh], _, ht⟩)
          · exact .inr (.inr (.inl ⟨hp, hf, hb, hy, by simp [issued, hh], _, ht⟩))
        · split at h <;> rename_i hy
          · rw [← same] at h
            rcases controllerTurn_cases s.host h with ⟨-, ht⟩ | ⟨hn, ht⟩
            · exact .inr (.inl ⟨hp, hf, hb, by simp [controllerMoves, hh, hy], hy, by simp [issued, hh, hy], _, ht⟩)
            · exact absurd (hy.symm.trans hn) (by decide)
          · exact .inr (.inr (.inr (.inl ⟨hp, hf, hb, _, _, by simp [issued, hh, hy], h⟩)))
        · exact .inr (.inr (.inr (.inl ⟨hp, hf, hb, _, _, by simp [issued, hh], h⟩)))
        · rcases controllerTurn_cases _ h with ⟨hy, ht⟩ | ⟨hy, ht⟩
          · exact .inr (.inl ⟨hp, hf, hb, by simp [controllerMoves, hh, hy], hy, by simp [issued, hh], _, ht⟩)
          · exact .inr (.inr (.inl ⟨hp, hf, hb, hy, by simp [issued, hh], _, ht⟩))
        · rw [Host.Outcome.next.injEq] at h
          exact .inr (.inr (.inr (.inr ⟨hp, hf, hb, by simp [issued, hh], _, _, _, h.symm⟩)))
        · rw [raise_eq, Host.Outcome.next.injEq] at h
          exact .inl ⟨hp, hf, _, _, h.symm⟩
        · rw [raise_eq, Host.Outcome.next.injEq] at h
          exact .inl ⟨hp, hf, _, _, h.symm⟩
        · simp [keepsPower, hh] at hp
      · rw [move_unbound hp hf (Bool.eq_false_iff.2 hb), raise_eq, Host.Outcome.next.injEq] at h
        exact .inl ⟨hp, hf, _, s.host, h.symm⟩
    · rw [move_faulted hp hf] at h
      cases h
  · left
    unfold keepsPower at hp
    split at hp
    · rename_i rest hh
      rw [move_powerCycle hh, Host.Outcome.next.injEq] at h
      exact ⟨rest, hh, h.symm⟩
    · exact absurd rfl hp

/-! ### One step: its move, and the undriven wires drawn anew -/

/-- A step answers a next state exactly when its move does. -/
theorem step_next_iff {s t : State} : step s = .next t ↔ ∃ u, move s = .next u ∧ t = redraw u := by
  unfold step turn
  cases move s <;> simp [redrawNext, eq_comm]

theorem step_of_move {s u : State} (h : move s = .next u) : step s = .next (redraw u) := step_next_iff.2 ⟨u, h, rfl⟩

theorem step_powerCycle {s : State} {rest : List HostMove} (h : s.host = .powerCycle :: rest) :
    step s = .next (redraw (powerOn (s.setHost rest))) := step_of_move (move_powerCycle h)

/-- A recorded fault is terminal for the run (60_exceptions.md R111). -/
theorem step_faulted {s : State} {f : Fault} (h : keepsPower s = true) (hf : s.fault = some f) : step s = .fault f := by
  unfold step turn
  rw [move_faulted h hf]
  rfl

theorem step_unbound {s : State} (h : keepsPower s = true) (hf : s.fault = none) (hb : s.params.bindingOk = false) :
    step s = .next (redraw { s with fault := some (s.fault.getD .lineBinding) }) :=
  step_of_move (move_unbound h hf hb)

theorem step_sound {s : State} (h : keepsPower s = true) (hs : Sound s) : step s = redrawNext (hostOrController s) := by
  unfold step turn
  rw [move_live h hs.1 hs.2.1]

/-- Where the controller moves, the step is its micro-step (10_state.md R13). -/
theorem step_controllerMoves {s : State} (hs : Sound s) (hm : controllerMoves s = true) :
    ∃ rest, step s = .next (redraw ((controllerStep s).setHost rest)) := by
  unfold controllerMoves at hm
  split at hm <;> rename_i hh
  · refine ⟨s.host, ?_⟩
    rw [step_sound (by simp [keepsPower, hh]) hs]
    simp only [hostOrController, hh, controllerTurn, redrawNext]
    rw [← hh, ← controllerStep_setHost]
    rfl
  · refine ⟨s.host, ?_⟩
    rw [step_sound (by simp [keepsPower, hh]) hs]
    simp only [hostOrController, hh, hm, controllerTurn, redrawNext, reduceIte]
    rw [← hh, ← controllerStep_setHost]
    rfl
  · rename_i rest
    refine ⟨rest, ?_⟩
    rw [step_sound (by simp [keepsPower, hh]) hs]
    simp only [hostOrController, hh, controllerTurn, redrawNext, controllerStep_setHost]
  · cases hm

/-- Everything a step can do. -/
theorem step_cases {s t : State} (h : step s = .next t) :
    (∃ rest, s.host = .powerCycle :: rest ∧ t = redraw (powerOn (s.setHost rest))) ∨
    (keepsPower s = true ∧ s.fault = none ∧ ∃ f rest, t = redraw { s with fault := some f, host := rest }) ∨
    (keepsPower s = true ∧ s.fault = none ∧ s.params.bindingOk = true ∧ controllerMoves s = true ∧ s.busy = true ∧
      issued s = none ∧ ∃ rest, t = redraw ((controllerStep s).setHost rest)) ∨
    (keepsPower s = true ∧ s.fault = none ∧ s.params.bindingOk = true ∧ s.busy = false ∧ issued s = none ∧
      ∃ rest, t = redraw (s.setHost rest)) ∨
    (keepsPower s = true ∧ s.fault = none ∧ s.params.bindingOk = true ∧
      ∃ i rest u, issued s = some i ∧ exec i (s.setHost rest) = .next u ∧ t = redraw u) ∨
    (keepsPower s = true ∧ s.fault = none ∧ s.params.bindingOk = true ∧ issued s = none ∧
      ∃ a b rest, t = redraw { s with cfgSettleIn := a, cfgDelayIn := b, host := rest }) := by
  obtain ⟨u, hm, rfl⟩ := step_next_iff.1 h
  rcases move_cases hm with ⟨rest, hh, rfl⟩ | ⟨hp, hf, f, rest, rfl⟩ | ⟨hp, hf, hb, hc, hy, hi, rest, rfl⟩ |
    ⟨hp, hf, hb, hy, hi, rest, rfl⟩ | ⟨hp, hf, hb, i, rest, hi, he⟩ | ⟨hp, hf, hb, hi, a, b, rest, rfl⟩
  · exact .inl ⟨rest, hh, rfl⟩
  · exact .inr (.inl ⟨hp, hf, f, rest, rfl⟩)
  · exact .inr (.inr (.inl ⟨hp, hf, hb, hc, hy, hi, rest, rfl⟩))
  · exact .inr (.inr (.inr (.inl ⟨hp, hf, hb, hy, hi, rest, rfl⟩)))
  · exact .inr (.inr (.inr (.inr (.inl ⟨hp, hf, hb, i, rest, u, hi, he, rfl⟩))))
  · exact .inr (.inr (.inr (.inr (.inr ⟨hp, hf, hb, hi, a, b, rest, rfl⟩))))

/-! ### Free values are drawn in order (log entries 6 and 10) -/

theorem controllerStep_free_le (s : State) : s.free ≤ (controllerStep s).free := by
  unfold controllerStep
  split
  · unfold initMicroStep
    split <;> simp [waitTicks, lineWrite_free, configAll_free_le]
  · unfold shiftMicroStep
    split <;> simp only [nextBit, waitTicks, State.setStep_free, State.emit_free, lineWrite_free] <;> (try split) <;>
      simp [lineWrite_free]
  · exact le_refl _
  · exact le_refl _

theorem exec_free_le {i : Instr} {s t : State} (h : exec i s = .next t) : s.free ≤ t.free := by
  rcases exec_cases h with ⟨f, -, rfl⟩ | ⟨d, -, -, rfl⟩ | ⟨d, -, -, rfl⟩ | ⟨d, -, -, rfl⟩ | ⟨d, -, -, rfl⟩
  · exact le_refl _
  · exact le_refl _
  · exact le_refl _
  · exact Nat.le_add_right _ _
  · exact Nat.le_add_right _ _

theorem move_free_le {s t : State} (h : move s = .next t) : s.free ≤ t.free := by
  rcases move_cases h with ⟨rest, -, rfl⟩ | ⟨-, -, f, rest, rfl⟩ | ⟨-, -, -, -, -, -, rest, rfl⟩ |
    ⟨-, -, -, -, -, rest, rfl⟩ | ⟨-, -, -, i, rest, -, he⟩ | ⟨-, -, -, -, a, b, rest, rfl⟩
  · show s.free ≤ s.free + 2 + 2 * s.chain.length
    omega
  · exact le_refl _
  · exact controllerStep_free_le s
  · exact le_refl _
  · exact exec_free_le (s := s.setHost rest) he
  · exact le_refl _

/-- A step that leaves a line undriven makes a fresh draw of every unspecified level, whatever the step did: no wire of an
undriven line is the same free value before and after it. -/
theorem step_free_lt {s t : State} (h : step s = .next t) (ha : t.allOut = false) : s.free < t.free := by
  obtain ⟨u, hm, rfl⟩ := step_next_iff.1 h
  rw [redraw_free (by simpa using ha)]
  exact Nat.lt_succ_of_le (move_free_le hm)

/-! ### Runs -/

theorem run_zero (s : State) : Host.Core.run Sys2Proof.core 0 s = .next s := rfl

theorem run_succ {s t : State} (h : step s = .next t) (n : Nat) :
    Host.Core.run Sys2Proof.core (n + 1) s = Host.Core.run Sys2Proof.core n t := by
  simp only [Host.Core.run, show Sys2Proof.core.step s = .next t from h]

/-- A step that answers no next state ends the run. -/
theorem run_succ_fault {s : State} {f : Fault} (h : step s = .fault f) (n : Nat) :
    Host.Core.run Sys2Proof.core (n + 1) s = .fault f := by
  simp only [Host.Core.run, show Sys2Proof.core.step s = .fault f from h]

/-- A run of m + n steps is a run of m steps and then one of n. -/
theorem run_add {s t : State} (m n : Nat) (h : Host.Core.run Sys2Proof.core m s = .next t) :
    Host.Core.run Sys2Proof.core (m + n) s = Host.Core.run Sys2Proof.core n t := by
  induction m generalizing s with
  | zero =>
    cases h
    rw [Nat.zero_add]
  | succ m ih =>
    cases hs : step s with
    | next u =>
      rw [run_succ hs] at h
      rw [Nat.add_right_comm, run_succ hs]
      exact ih h
    | fault f =>
      rw [run_succ_fault hs] at h
      cases h
    | refused f =>
      simp only [Host.Core.run, show Sys2Proof.core.step s = .refused f from hs] at h
      cases h

theorem patient_keepsPower {s : State} (h : patient s.host = true) : keepsPower s = true := by
  unfold keepsPower
  split
  · rename_i hh
    simp [patient, hh] at h
  · rfl

/-- A host that keeps its contract lets the controller finish (00_scope.md R7, 60_exceptions.md R119). -/
theorem step_patient_busy {s : State} (hs : Sound s) (hb : s.busy = true) (hp : patient s.host = true) :
    step s = .next (redraw (controllerStep s)) := by
  rw [step_sound (patient_keepsPower hp) hs]
  unfold hostOrController
  cases hh : s.host with
  | nil => rfl
  | cons m rest => cases m <;> simp_all [patient, controllerTurn, redrawNext]

/-- A command issued under the contract (30_encoding.md R66, R67). -/
theorem step_issueWhenReady {s : State} {w : CmdWord} {rest : List HostMove} (hs : Sound s) (hb : s.busy = false)
    (hh : s.host = .issueWhenReady w :: rest) : step s = redrawNext (exec (decode w) (s.setHost rest)) := by
  rw [step_sound (by simp [keepsPower, hh]) hs]
  simp [hostOrController, hh, hb]

/-! ### Ended runs -/

/-- What a step of an ended run can do before power returns: it uses up the next move, which may set the inputs or be a
foreign agent's, and only the latter records a fault. -/
theorem step_runEnded {s : State} (hs : Sound s) (he : RunEnded s) (hk : keepsPower s = true) :
    noCommandLeft s.host.tail = true ∧ ∃ a b f, ((s.host.take 1).all quietMove = true → f = none) ∧
      step s = .next (redraw { s with cfgSettleIn := a, cfgDelayIn := b, fault := f, host := s.host.tail }) := by
  obtain ⟨hc, hb, hf⟩ := he
  rw [step_sound hk hs]
  have pass : controllerTurn (s.setHost s.host.tail) = .next { s with host := s.host.tail } :=
    congrArg Host.Outcome.next (controllerStep_idle (s := s.setHost s.host.tail) hb)
  cases hh : s.host with
  | nil =>
    refine ⟨rfl, s.cfgSettleIn, s.cfgDelayIn, s.fault, fun _ => hf, ?_⟩
    simp only [hostOrController, hh, controllerTurn, controllerStep_idle hb, redrawNext, List.tail_nil]
    rw [← hh]
  | cons m r =>
    rw [hh] at hc
    cases m with
    | issueWhenReady w => cases hc
    | issue w => cases hc
    | powerCycle => simp [keepsPower, hh] at hk
    | pass =>
      rw [hh, List.tail_cons] at pass
      exact ⟨hc, s.cfgSettleIn, s.cfgDelayIn, s.fault, fun _ => hf, by simp only [hostOrController, hh, pass]; rfl⟩
    | setCfg a b => exact ⟨hc, a, b, s.fault, fun _ => hf, by simp only [hostOrController, hh]; rfl⟩
    | foreignWrite l v =>
      exact ⟨hc, s.cfgSettleIn, s.cfgDelayIn, _, by simp [quietMove], by simp only [hostOrController, hh, raise]; rfl⟩
    | foreignBind l =>
      exact ⟨hc, s.cfgSettleIn, s.cfgDelayIn, _, by simp [quietMove], by simp only [hostOrController, hh, raise]; rfl⟩

end Sys2Proof.Machine
end

