-- ==== Sys2Proof/Laws/Controller.lean ====
section
/-! SUPPORT. The effect of each micro-step, written out, in a state that meets what its position says of the lines
(`InitInv`, `ShiftInv`): one lemma per micro-step, which proofs about runs cite instead of unfolding the controller. -/

namespace Sys2Proof.Machine

/-! ### Runs of an operation in progress -/

/-- One step of an operation under a host that keeps its contract, in a run. -/
theorem run_busy {s : State} (hs : Sound s) (hp : patient s.host = true) (hb : s.busy = true) (n : Nat) :
    Host.Core.run Sys2Proof.core (n + 1) s = Host.Core.run Sys2Proof.core n (redraw (controllerStep s)) :=
  run_succ (step_patient_busy hs hb hp) n

theorem controllerStep_sound {s : State} (hs : Sound s) : Sound (controllerStep s) := by
  refine ⟨by simpa using hs.1, by simpa using hs.2.1, fun h => hs.2.2 ?_⟩
  rw [← List.length_eq_zero_iff, ← controllerStep_chain_length, h]
  rfl

theorem redraw_sound {s : State} (hs : Sound s) : Sound (redraw s) := hs

/-- An output stays an output through every micro-step (10_state.md R20). -/
theorem controllerStep_allOut {s : State} (h : s.allOut = true) : (controllerStep s).allOut = true := by
  unfold controllerStep
  split
  · unfold initMicroStep
    split <;> simp [waitTicks, h]
  · unfold shiftMicroStep
    split <;> simp only [nextBit, waitTicks, State.setStep_allOut, State.emit_allOut, lineWrite_allOut, h]
    · split <;> simp [h]
    · split <;> simp [h]
  · exact h
  · exact h

/-- A run of n micro-steps, where all lines are outputs. -/
theorem run_micro {s : State} (hs : Sound s) (hp : patient s.host = true) (ha : s.allOut = true) (n : Nat)
    (hb : ∀ k, k < n → (controllerStep^[k] s).busy = true) :
    Host.Core.run Sys2Proof.core n s = .next (controllerStep^[n] s) := by
  induction n generalizing s with
  | zero => rfl
  | succ n ih =>
    rw [run_busy hs hp (hb 0 (Nat.succ_pos n)), redraw_of_allOut (controllerStep_allOut ha),
      ih (controllerStep_sound hs) (by simpa using hp) (controllerStep_allOut ha) fun k hk => hb (k + 1)
      (Nat.succ_lt_succ hk)]
    rfl

/-- S7 before bit 7 and of bit 7 (10_state.md R13). -/
theorem nextBit_more {s : State} (h : s.bitIdx ≠ 7#3) :
    nextBit s = (s.setBitIdx (s.bitIdx + 1#3)).setStep 0#3 := if_neg h

theorem nextBit_last {s : State} (h : s.bitIdx = 7#3) : nextBit s = s.setSeq .idle := if_pos h

/-! ### CONSTRUCT -/

theorem init_i0 {s : State} (hq : s.seq = .init) (hc : s.stepReg = 0#3) :
    controllerStep s = (configAll s).setStep 1#3 := by
  rw [controllerStep_init hq, hc]
  rfl

theorem init_i1 {s : State} (hq : s.seq = .init) (hc : s.stepReg = 1#3) (ha : s.allOut = true) :
    controllerStep s = { s with
      stepReg := 2#3
      lvl := { s.lvl with oeN := true }
      chain := if s.lvl.clrN = false then chainClear s.chain else s.chain
      trace := s.trace ++ [.write .oeN true] } := by
  rw [controllerStep_init hq, hc]
  show (lineWrite .oeN true s).setStep 2#3 = _
  rw [lineWrite_driven ha]
  simp only [State.setStep, PerLine.set, chainReact, clearOrShift, reduceCtorEq, false_and, reduceIte]

theorem init_i2 {s : State} (hq : s.seq = .init) (hc : s.stepReg = 2#3) (ha : s.allOut = true) :
    controllerStep s = { s with
      stepReg := 3#3
      lvl := { s.lvl with clrN := false }
      chain := chainClear s.chain
      trace := s.trace ++ [.write .clrN false] } := by
  rw [controllerStep_init hq, hc]
  show (lineWrite .clrN false s).setStep 3#3 = _
  rw [lineWrite_driven ha]
  simp only [State.setStep, PerLine.set, chainReact, clearOrShift, reduceCtorEq, false_and, reduceIte]

/-- A clock or data line written low while the chain is held clear. -/
theorem lineWrite_low_cleared {s : State} (ha : s.allOut = true) (h0 : s.lvl.clrN = false) (hz : AllClear s.chain)
    (l : Line) (hl : l = .sck ∨ l = .rck ∨ l = .ser) :
    lineWrite l false s = { s with lvl := s.lvl.set l false, trace := s.trace ++ [.write l false] } := by
  rw [lineWrite_driven ha, chainReact_clear, chainClear_of_clear hz]
  · rcases hl with rfl | rfl | rfl <;> exact h0
  · rintro ⟨rfl, h⟩
    simp [rising, PerLine.set] at h

theorem init_i3 {s : State} (hq : s.seq = .init) (hc : s.stepReg = 3#3) (ha : s.allOut = true)
    (h0 : s.lvl.clrN = false) (hz : AllClear s.chain) :
    controllerStep s = { s with
      stepReg := 4#3
      lvl := { s.lvl with sck := false }
      trace := s.trace ++ [.write .sck false] } := by
  rw [controllerStep_init hq, hc]
  show (lineWrite .sck false s).setStep 4#3 = _
  rw [lineWrite_low_cleared ha h0 hz .sck (.inl rfl)]
  rfl

theorem init_i4 {s : State} (hq : s.seq = .init) (hc : s.stepReg = 4#3) (ha : s.allOut = true)
    (h0 : s.lvl.clrN = false) (hz : AllClear s.chain) :
    controllerStep s = { s with
      stepReg := 5#3
      lvl := { s.lvl with rck := false }
      trace := s.trace ++ [.write .rck false] } := by
  rw [controllerStep_init hq, hc]
  show (lineWrite .rck false s).setStep 5#3 = _
  rw [lineWrite_low_cleared ha h0 hz .rck (.inr (.inl rfl))]
  rfl

theorem init_i5 {s : State} (hq : s.seq = .init) (hc : s.stepReg = 5#3) (ha : s.allOut = true)
    (h0 : s.lvl.clrN = false) (hz : AllClear s.chain) :
    controllerStep s = { s with
      stepReg := 6#3
      lvl := { s.lvl with ser := false }
      trace := s.trace ++ [.write .ser false] } := by
  rw [controllerStep_init hq, hc]
  show (lineWrite .ser false s).setStep 6#3 = _
  rw [lineWrite_low_cleared ha h0 hz .ser (.inr (.inr rfl))]
  rfl

theorem init_i6 {s : State} (hq : s.seq = .init) (hc : s.stepReg = 6#3) :
    controllerStep s = { s with stepReg := 7#3, trace := s.trace ++ [.wait s.cfgSettle] } := by
  rw [controllerStep_init hq, hc]
  rfl

theorem init_i7 {s : State} (hq : s.seq = .init) (hc : s.stepReg = 7#3) (ha : s.allOut = true) :
    controllerStep s = { s with
      seq := .idle
      lvl := { s.lvl with clrN := true }
      trace := s.trace ++ [.write .clrN true] } := by
  rw [controllerStep_init hq, show initStepOf s.stepReg = .i7 by rw [hc]; rfl]
  show (lineWrite .clrN true s).setSeq .idle = _
  rw [lineWrite_driven ha, chainReact_none rfl _ _ (by simp) (by simp)]
  rfl

/-! ### BYTESHIFT -/

/-- A line write that is no rising clock, with CLR_n high before and after. -/
theorem lineWrite_quiet {s : State} (ha : s.allOut = true) (h1 : s.lvl.clrN = true) (l : Line) (v : Level)
    (hl : l ≠ .clrN) (hs : ¬ (l = .sck ∧ s.lvl.sck = false ∧ v = true))
    (hr : ¬ (l = .rck ∧ s.lvl.rck = false ∧ v = true)) :
    lineWrite l v s = { s with lvl := s.lvl.set l v, trace := s.trace ++ [.write l v] } := by
  rw [lineWrite_driven ha, chainReact_none]
  · cases l <;> first | exact h1 | exact absurd rfl hl
  · rintro ⟨rfl, h⟩
    exact hs ⟨rfl, by simpa [rising, PerLine.set] using h⟩
  · rintro ⟨rfl, h⟩
    exact hr ⟨rfl, by simpa [rising, PerLine.set] using h⟩

theorem shift_s1 {s : State} (hq : s.seq = .shift) (hc : s.stepReg = 0#3) (ha : s.allOut = true)
    (h1 : s.lvl.clrN = true) :
    controllerStep s = { s with
      stepReg := 1#3
      lvl := { s.lvl with ser := dataBit s.dreg s.bitIdx }
      trace := s.trace ++ [.write .ser (dataBit s.dreg s.bitIdx)] } := by
  rw [controllerStep_shift hq, hc]
  show (lineWrite .ser (dataBit s.dreg s.bitIdx) s).setStep 1#3 = _
  rw [lineWrite_quiet ha h1 _ _ (by decide) (by simp) (by simp)]
  rfl

theorem shift_s2 {s : State} (hq : s.seq = .shift) (hc : s.stepReg = 1#3) :
    controllerStep s = { s with stepReg := 2#3, trace := s.trace ++ [.wait s.cfgDelay] } := by
  rw [controllerStep_shift hq, hc]
  rfl

theorem shift_s3 {s : State} (hq : s.seq = .shift) (hc : s.stepReg = 2#3) (ha : s.allOut = true)
    (h1 : s.lvl.clrN = true) (h0 : s.lvl.sck = false) :
    controllerStep s = { s with
      stepReg := 3#3
      lvl := { s.lvl with sck := true }
      chain := chainShift s.lvl.ser s.chain
      trace := s.trace ++ [.write .sck true] } := by
  rw [controllerStep_shift hq, hc]
  show (lineWrite .sck true s).setStep 3#3 = _
  rw [lineWrite_driven ha, chainReact_shift (new := s.lvl.set .sck true) h1 h0 rfl]
  rfl

theorem shift_s4 {s : State} (hq : s.seq = .shift) (hc : s.stepReg = 3#3) :
    controllerStep s = { s with stepReg := 4#3, trace := s.trace ++ [.wait s.cfgDelay] } := by
  rw [controllerStep_shift hq, hc]
  rfl

theorem shift_s5a {s : State} (hq : s.seq = .shift) (hc : s.stepReg = 4#3) (ha : s.allOut = true)
    (h1 : s.lvl.clrN = true) :
    controllerStep s = { s with
      stepReg := 5#3
      lvl := { s.lvl with sck := false }
      trace := s.trace ++ [.write .sck false] } := by
  rw [controllerStep_shift hq, hc]
  show (lineWrite .sck false s).setStep 5#3 = _
  rw [lineWrite_quiet ha h1 _ _ (by decide) (by simp) (by simp)]
  rfl

/-- S5b in a latching bit cycle (41_byteshift.md R91). -/
theorem shift_s5b_latch {s : State} (hq : s.seq = .shift) (hc : s.stepReg = 5#3) (ha : s.allOut = true)
    (h1 : s.lvl.clrN = true) (h0 : s.lvl.rck = false) (hl : latchNow s.params.latchMode s.bitIdx = true) :
    controllerStep s = { s with
      stepReg := 6#3
      lvl := { s.lvl with rck := true }
      chain := chainLatch s.chain
      trace := s.trace ++ [.write .rck true] } := by
  rw [controllerStep_shift hq, hc]
  show (if latchNow s.params.latchMode s.bitIdx then lineWrite .rck true s else s).setStep 6#3 = _
  rw [if_pos hl, lineWrite_driven ha, chainReact_latch (new := s.lvl.set .rck true) h1 h0 rfl]
  rfl

/-- S5b in every other bit cycle does nothing (41_byteshift.md R91). -/
theorem shift_s5b_pass {s : State} (hq : s.seq = .shift) (hc : s.stepReg = 5#3)
    (hl : latchNow s.params.latchMode s.bitIdx = false) :
    controllerStep s = { s with stepReg := 6#3 } := by
  rw [controllerStep_shift hq, hc]
  show (if latchNow s.params.latchMode s.bitIdx then lineWrite .rck true s else s).setStep 6#3 = _
  rw [hl]
  rfl

theorem shift_s6 {s : State} (hq : s.seq = .shift) (hc : s.stepReg = 6#3) :
    controllerStep s = { s with stepReg := 7#3, trace := s.trace ++ [.wait s.cfgDelay] } := by
  rw [controllerStep_shift hq, hc]
  rfl

/-- S7 before bit 7: the next bit cycle starts. -/
theorem shift_s7_next {s : State} (hq : s.seq = .shift) (hc : s.stepReg = 7#3) (ha : s.allOut = true)
    (h1 : s.lvl.clrN = true) (hb : s.bitIdx ≠ 7#3) :
    controllerStep s = { s with
      stepReg := 0#3
      bitIdx := s.bitIdx + 1#3
      lvl := { s.lvl with rck := false }
      trace := s.trace ++ [.write .rck false] } := by
  rw [controllerStep_shift hq, show shiftStepOf s.stepReg = .s7 by rw [hc]; rfl]
  show nextBit (lineWrite .rck false s) = _
  rw [lineWrite_quiet ha h1 _ _ (by decide) (by simp) (by simp), nextBit, if_neg hb]
  rfl

/-- S7 of bit 7: the operation ends. -/
theorem shift_s7_last {s : State} (hq : s.seq = .shift) (hc : s.stepReg = 7#3) (ha : s.allOut = true)
    (h1 : s.lvl.clrN = true) (hb : s.bitIdx = 7#3) :
    controllerStep s = { s with
      seq := .idle
      lvl := { s.lvl with rck := false }
      trace := s.trace ++ [.write .rck false] } := by
  rw [controllerStep_shift hq, show shiftStepOf s.stepReg = .s7 by rw [hc]; rfl]
  show nextBit (lineWrite .rck false s) = _
  rw [lineWrite_quiet ha h1 _ _ (by decide) (by simp) (by simp), nextBit, if_pos hb]
  rfl

end Sys2Proof.Machine
end

