-- ==== Sys2Proof/Laws/Decode.lean ====
section
/-! SUPPORT. The two fields of a command word (30_encoding.md R60): a word is its fields, and the fields of a word put
together are those it was put together from. -/

namespace Sys2Proof

theorem opField_append (o : BitVec 2) (d : Byte) : opField (o ++ d) = o := by
  apply BitVec.eq_of_getLsbD_eq
  intro i hi
  simp only [opField, BitVec.getLsbD_extractLsb', BitVec.getLsbD_append, hi, decide_true, Bool.true_and]
  rw [if_neg (by omega), Nat.add_sub_cancel_left]

theorem dataField_append (o : BitVec 2) (d : Byte) : dataField (o ++ d) = d := by
  apply BitVec.eq_of_getLsbD_eq
  intro i hi
  simp only [dataField, BitVec.getLsbD_extractLsb', BitVec.getLsbD_append, hi, decide_true, Bool.true_and, Nat.zero_add,
    if_true]

theorem opField_append_dataField (w : CmdWord) : opField w ++ dataField w = w := by
  apply BitVec.eq_of_getLsbD_eq
  intro i hi
  simp only [opField, dataField, BitVec.getLsbD_append, BitVec.getLsbD_extractLsb']
  split
  · simp_all
  · rename_i h
    rw [show 8 + (i - 8) = i by omega]
    simp
    omega

/-- `op` takes each of its four values (30_encoding.md R61). -/
theorem opField_cases (w : CmdWord) :
    opField w = 0b00#2 ∨ opField w = 0b01#2 ∨ opField w = 0b10#2 ∨ opField w = 0b11#2 := by
  generalize opField w = o
  revert o
  decide

end Sys2Proof
end

