-- ==== Sys2Proof/Laws/PerInstr.lean ====
section
/-! SUPPORT. One statement for all instructions, proved constructor by constructor: the word of a command carries its
row's `op` and its data field, and a well-formed command carries no data but BYTESHIFT's
(30_encoding.md R60, R61, R64). -/

namespace Sys2Proof.Laws.OpcodeRow

/-- The `op` field of the command's row of the opcode map (30_encoding.md R61). -/
def op : Instr → BitVec 2
  | .construct _     => 0b00
  | .byteShift _     => 0b01
  | .enableOutput _  => 0b10
  | .disableOutput _ => 0b11

/-- The data field the command's word carries (30_encoding.md R60). -/
def data : Instr → Byte
  | .construct d     => d
  | .byteShift d     => d
  | .enableOutput d  => d
  | .disableOutput d => d

def Statement (i : Instr) : Prop :=
  opField (encode i) = op i ∧ dataField (encode i) = data i ∧
  (i.wellFormed = true → data i = 0x00#8 ∨ op i = 0b01#2)

theorem construct (d : Byte) : Statement (.construct d) :=
  ⟨opField_append _ d, dataField_append _ d, fun h => .inl (by simpa [Instr.wellFormed, data] using h)⟩

theorem byteShift (d : Byte) : Statement (.byteShift d) :=
  ⟨opField_append _ d, dataField_append _ d, fun _ => .inr rfl⟩

theorem enableOutput (d : Byte) : Statement (.enableOutput d) :=
  ⟨opField_append _ d, dataField_append _ d, fun h => .inl (by simpa [Instr.wellFormed, data] using h)⟩

theorem disableOutput (d : Byte) : Statement (.disableOutput d) :=
  ⟨opField_append _ d, dataField_append _ d, fun h => .inl (by simpa [Instr.wellFormed, data] using h)⟩

end Sys2Proof.Laws.OpcodeRow
end

