-- ==== Sys2Proof/Tests/Slice0.lean ====
section
/-! SUPPORT. Small tests: well-formedness, decoding of words written out bit by bit, one step per command, and for each
statement with hypotheses a state and operands that meet them. Expected values are from spec/95_test_vectors.md. -/

namespace Sys2Proof.Machine

/-! ### Well-formedness: what the check accepts and refuses -/

theorem test_wellFormed_construct : (Instr.construct 0x00#8).wellFormed = true := by decide
theorem test_illFormed_construct : (Instr.construct 0xFF#8).wellFormed = false := by decide
theorem test_wellFormed_byteShift : (Instr.byteShift 0xFF#8).wellFormed = true := by decide
theorem test_wellFormed_enableOutput : (Instr.enableOutput 0x00#8).wellFormed = true := by decide
theorem test_illFormed_enableOutput : (Instr.enableOutput 0xAB#8).wellFormed = false := by decide
theorem test_wellFormed_disableOutput : (Instr.disableOutput 0x00#8).wellFormed = true := by decide
theorem test_illFormed_disableOutput : (Instr.disableOutput 0x01#8).wellFormed = false := by decide

/-! ### Decoding: words written out from 30_encoding.md R60 and R61, op and then data (V9) -/

theorem test_decode_construct : decode 0b00_00000000#10 = .construct 0x00#8 := by decide
theorem test_decode_construct_ignored : decode 0b00_11111111#10 = .construct 0xFF#8 := by decide
theorem test_decode_byteShift : decode 0b01_11111100#10 = .byteShift 0xFC#8 := by decide
theorem test_decode_byteShift_low : decode 0b01_00000001#10 = .byteShift 0x01#8 := by decide
theorem test_decode_enableOutput : decode 0b10_00000000#10 = .enableOutput 0x00#8 := by decide
theorem test_decode_enableOutput_ignored : decode 0b10_10101011#10 = .enableOutput 0xAB#8 := by decide
theorem test_decode_disableOutput : decode 0b11_00000000#10 = .disableOutput 0x00#8 := by decide
theorem test_decode_disableOutput_ignored : decode 0b11_11111111#10 = .disableOutput 0xFF#8 := by decide
theorem test_decode_too_wide : decodeTableWord 16 0x400 = none := by decide
theorem test_decode_widest_number : decodeWord 1023 = .ok (.disableOutput 0xFF#8) := by decide
theorem test_fetch_first_after_reset :
    ∃ t, step (State.reset.withFetchWord 16 0x000) = .next t ∧ t.seq = .init := ⟨_, rfl, rfl⟩

/-! ### The states of the tests: two devices, lines at rest, outputs disabled -/

/-- Between operations. -/
def rested (h : List HostMove) : State :=
  { State.reset with
    seq := .idle
    dir := ⟨.out, .out, .out, .out, .out⟩
    lvl := ⟨false, false, false, true, true⟩
    chain := [⟨0x68#8, 0x12#8⟩, ⟨0x24#8, 0x00#8⟩]
    cfgSettleIn := 16#16
    cfgDelayIn := 4#16
    host := h }

/-- At micro-step `c` of the bit cycle of bit `i`, on the levels `p`. -/
def shifting (c i : BitVec 3) (p : PerLine Level) (h : List HostMove) : State :=
  { rested h with seq := .shift, stepReg := c, bitIdx := i, dreg := 0x34#8, lvl := p }

/-- At micro-step `c` of CONSTRUCT. -/
def constructing (c : BitVec 3) (p : PerLine Level) (h : List HostMove) : State :=
  { rested h with seq := .init, stepReg := c, lvl := p }

/-- Lines at rest, outputs disabled. -/
def restLevels : PerLine Level := ⟨false, false, false, true, true⟩

/-- The lines of a latching bit cycle from S5b on, SER low. -/
def latchLevels : PerLine Level := ⟨false, false, true, true, true⟩

/-! ### One step per command and operation (V1, V2, V6 to V8) -/

/-- V1, acceptance: SEQ = INIT, the inputs sampled, BUSY = 1; the ignored data field is set. -/
theorem test_construct_accept : ∃ t, exec (.construct 0xFF#8) (rested []) = .next t ∧
    t.seq = .init ∧ t.cfgSettle = 16#16 ∧ t.cfgDelay = 4#16 ∧ t.busy = true := ⟨_, rfl, by decide⟩

/-- V2, I2 on an enabled chain that holds 0x60: SH becomes 00, LT stays 60, PIN is 10000. -/
theorem test_construct_clears : ∃ t,
    step { constructing 2#3 restLevels [] with chain := [⟨0x60#8, 0x60#8⟩] } = .next t ∧
    t.chain = [⟨0x00#8, 0x60#8⟩] ∧ t.pins.bits = 0b10000#5 := ⟨_, rfl, by decide⟩

/-- V3, acceptance: DREG = 0xFC, BITIDX = 0. -/
theorem test_byteShift_accept : ∃ t, exec (.byteShift 0xFC#8) { rested [] with bitIdx := 7#3 } = .next t ∧
    t.dreg = 0xFC#8 ∧ t.bitIdx = 0#3 ∧ t.seq = .shift := ⟨_, rfl, by decide⟩

/-- V6, the eighth shift of 0x34 into two devices: 68 24 becomes 34 12, LT stays 12 00. -/
theorem test_byteShift_shift : ∃ t, step (shifting 2#3 7#3 restLevels []) = .next t ∧
    t.chain = [⟨0x34#8, 0x12#8⟩, ⟨0x12#8, 0x00#8⟩] := ⟨_, rfl, by decide⟩

/-- V7, the first row: PIN becomes 01010, OUT shows LT, BUSY stays 0. -/
theorem test_enableOutput : ∃ t,
    exec (.enableOutput 0x00#8) { rested [] with lvl := ⟨false, true, false, true, true⟩, chain := [⟨0xFC#8, 0xFC#8⟩] }
      = .next t ∧
    t.pins.bits = 0b01010#5 ∧ t.outputs = [.pattern 0xFC#8] ∧ t.busy = false := ⟨_, rfl, by decide⟩

/-- V8: ENABLE_OUTPUT before CONSTRUCT is fault 2. -/
theorem test_enableOutput_unconstructed : ∃ t, exec (.enableOutput 0x00#8) State.reset = .next t ∧
    t.fault.map Fault.code = some 2 ∧ t.trace = [] := ⟨_, rfl, by decide⟩

/-- V7, the third row: PIN becomes 11010, OUT is BLANK. -/
theorem test_disableOutput : ∃ t,
    exec (.disableOutput 0x00#8) { rested [] with lvl := ⟨false, true, false, true, false⟩, chain := [⟨0xFC#8, 0xFC#8⟩] }
      = .next t ∧
    t.pins.bits = 0b11010#5 ∧ t.outputs = [.blank] ∧ t.chain = [⟨0xFC#8, 0xFC#8⟩] := ⟨_, rfl, by decide⟩

/-- V8: DISABLE_OUTPUT while a BYTESHIFT is in progress is fault 1. -/
theorem test_disableOutput_busy : ∃ t, exec (.disableOutput 0x00#8) (shifting 3#3 5#3 restLevels []) = .next t ∧
    t.fault.map Fault.code = some 1 ∧ t.lvl = restLevels := ⟨_, rfl, by decide⟩

/-- V3 counts: 24 waits, 33 line writes, 19 level changes. -/
theorem test_observed_counts :
    countWaits (byteListing .perByte 4#16 0xFC#8) = 24 ∧ countWrites (byteListing .perByte 4#16 0xFC#8) = 33 ∧
    (observe restLevels (byteListing .perByte 4#16 0xFC#8)).countP Observed.isPin = 19 := by decide

/-! ### Witnesses: what each statement assumes can be met, clause by clause -/

theorem test_witness_DecodeInvertsEncode : decodeWord 0x1FC = .ok (.byteShift 0xFC#8) ∧ 2 ^ 10 ≤ 1024 := by decide

theorem test_witness_OpcodeMapRows : 0x0FF#10 &&& 0x300#10 = 0x000#10 ∧ 0x100#10 &&& 0x300#10 = 0x100#10 ∧
    0x2FF#10 &&& 0x300#10 = 0x200#10 ∧ 0x3FF#10 &&& 0x300#10 = 0x300#10 := by decide

theorem test_witness_IgnoredFieldAndNoIllegalWord : 0 < 1024 ∧ 1023 < 1024 ∧ State.reset.fault = none ∧
    (shifting 0#3 0#3 restLevels []).fault = none := by decide

theorem test_witness_PowerCycleStartsNewRun : (rested [.powerCycle, .pass]).host = .powerCycle :: [.pass] := by decide

theorem test_witness_EndedRunStays : Sound State.reset ∧ RunEnded State.reset ∧ Sound (rested []) ∧
    RunEnded (rested []) ∧ (rested []).allOut = true ∧
    RunEnded (rested [.pass, .setCfg 1#16 2#16, .foreignBind .sck, .powerCycle, .issue 0x000#10]) ∧
    .powerCycle ∉ (rested [.pass, .setCfg 1#16 2#16, .foreignBind .sck, .powerCycle]).host.take 3 ∧
    ((rested [.pass, .setCfg 1#16 2#16, .foreignBind .sck]).host.take 2).all quietMove = true := by decide

theorem test_run_not_ended : ¬ RunEnded (rested [.pass, .issueWhenReady 0x200#10]) := by decide

theorem test_witness_EndedRunStays_run :
    ∃ t, Host.Core.run Sys2Proof.core 1 (rested [.foreignBind .sck]) = .next t := ⟨_, rfl⟩

theorem test_witness_StepIssuesDecodedCommand : Sound State.reset ∧
    decodeTableWord 16 0x1FC = some (.byteShift 0xFC#8) ∧
    Sound (rested [.issueWhenReady 0x200#10]) ∧
    (rested [.issueWhenReady 0x200#10]).host = .issueWhenReady 0x200#10 :: [] ∧
    Sound (shifting 0#3 0#3 restLevels [.issueWhenReady 0x200#10]) := by decide

theorem test_witness_StepRunsMicroStep : Sound (shifting 7#3 7#3 restLevels []) ∧
    (shifting 7#3 7#3 restLevels []).host = [] ∧ Sound (constructing 0#3 restLevels []) ∧ Sound (rested []) := by
  decide

theorem test_witness_InputsSampledOnlyByConstruct : (rested []).busy = false ∧
    issued (rested [.pass]) = none ∧ (shifting 0#3 0#3 restLevels [.issue 0x000#10]).busy = true := by decide

theorem test_not_construct_step : ¬ ((rested [.pass]).busy = false ∧ ∃ d, issued (rested [.pass]) = some (.construct d)) :=
  fun h => by
    obtain ⟨d, hd⟩ := h.2
    cases hd

theorem test_witness_LinesAndChainAreWriteOnly :
    ([⟨0x00#8, 0x01#8⟩, ⟨0x02#8, 0x03#8⟩] : List Device).length = (rested []).chain.length := by decide

theorem test_witness_ConstructAccepted : State.reset.busy = false ∧ (rested []).busy = false := by decide

/-- A state in which CONSTRUCT is the next command: from IDLE, and before any CONSTRUCT. -/
theorem test_witness_ConstructRunsToRest :
    (Sound (rested [.issueWhenReady 0x000#10]) ∧ (rested [.issueWhenReady 0x000#10]).busy = false ∧
      (rested [.issueWhenReady 0x000#10]).host = .issueWhenReady 0x000#10 :: [] ∧ patient [] = true ∧
      decode 0x000#10 = .construct 0x00#8 ∧ (rested [.issueWhenReady 0x000#10]).allOut = true) ∧
    Sound { State.reset with host := [.issueWhenReady 0x000#10] } ∧
    { State.reset with host := [.issueWhenReady 0x000#10] }.busy = false := by decide

theorem test_witness_ConstructBlanksFromI1On :
    Sound (rested [.issueWhenReady 0x0FF#10, .issueWhenReady 0x200#10]) ∧
    (rested [.issueWhenReady 0x0FF#10]).busy = false ∧ patient [.issueWhenReady 0x200#10] = true ∧
    decode 0x0FF#10 = .construct 0xFF#8 ∧ 3 ≤ 3 ∧ 9 ≤ 9 := by decide

theorem test_witness_ConstructEvents : Sound (rested [.issueWhenReady 0x000#10]) ∧
    (rested [.issueWhenReady 0x000#10]).busy = false ∧ patient [] = true ∧ decode 0x000#10 = .construct 0x00#8 := by
  decide

theorem test_witness_CommandWhileBusyFaults : (constructing 0#3 restLevels [.issue 0x000#10]).busy = true ∧
    Sound (shifting 7#3 7#3 restLevels [.issue 0x300#10]) ∧ (shifting 7#3 7#3 restLevels [.issue 0x300#10]).busy = true ∧
    (shifting 7#3 7#3 restLevels [.issue 0x300#10]).host = .issue 0x300#10 :: [] ∧
    keepsPower (shifting 7#3 7#3 restLevels []) = true := by decide

theorem test_witness_UseBeforeConstructFaults : (∀ d, Instr.byteShift 0xFC#8 ≠ .construct d) ∧
    State.reset.fault = none ∧ State.reset.seq = .unconstructed ∧
    (constructing 7#3 restLevels []).fault = none ∧ (constructing 7#3 restLevels []).seq = .init ∧
    keepsPower State.reset = true :=
  ⟨fun _ h => Instr.noConfusion h, by decide⟩

theorem test_witness_RaiseRecordsAndStops : State.reset.fault = none ∧
    { State.reset with fault := some .foreignWrite }.fault = some .foreignWrite ∧
    keepsPower { State.reset with fault := some .foreignWrite } = true := by decide

theorem test_witness_BindingPremisesFault : Sound (rested [.foreignWrite .sck true, .pass]) ∧
    (rested [.foreignWrite .sck true, .pass]).host = .foreignWrite .sck true :: [.pass] ∧
    Sound (rested [.foreignBind .oeN]) ∧ (rested [.foreignBind .oeN]).host = .foreignBind .oeN :: [] ∧
    keepsPower (rested []) = true ∧ Line.sck ≠ Line.oeN ∧
    { Params.default with binding := ⟨0, 1, 2, 3, 0⟩ }.physicalPin .sck =
      { Params.default with binding := ⟨0, 1, 2, 3, 0⟩ }.physicalPin .oeN ∧
    (4 ∈ { Params.default with taken := [4] }.taken ∧
      { Params.default with taken := [4] }.physicalPin .oeN = Config.pinOf 4) ∧
    (0 ∈ { Params.default with notOutputs := [0] }.notOutputs ∧
      { Params.default with notOutputs := [0] }.physicalPin .sck = Config.pinOf 0) :=
  ⟨by decide, rfl, by decide, rfl, by decide, by decide, rfl, ⟨by decide, rfl⟩, by decide, rfl⟩

theorem test_witness_ByteShiftAccepted : (rested []).seq = .idle := by decide

/-- The bit cycles of bit 0 and of bit 7. -/
theorem test_witness_BitCycle :
    (Sound (shifting 0#3 0#3 restLevels []) ∧ patient (shifting 0#3 0#3 restLevels []).host = true ∧
      (shifting 0#3 0#3 restLevels []).seq = .shift ∧ (shifting 0#3 0#3 restLevels []).stepReg = 0#3 ∧
      ShiftInv 0 (shifting 0#3 0#3 restLevels [])) ∧
    Sound (shifting 0#3 7#3 restLevels []) ∧ ShiftInv 0 (shifting 0#3 7#3 restLevels []) := by decide

/-- The premises that the statements about a whole BYTESHIFT share. -/
theorem test_witness_ByteShiftDeliversByte : Sound (rested [.issueWhenReady 0x134#10]) ∧
    (rested [.issueWhenReady 0x134#10]).seq = .idle ∧ RestInv (rested [.issueWhenReady 0x134#10]) ∧
    (rested [.issueWhenReady 0x134#10]).host = .issueWhenReady 0x134#10 :: [] ∧ patient [] = true ∧
    decode 0x134#10 = .byteShift 0x34#8 ∧ 0 < (rested []).chain.length ∧ 1 ≤ 1 ∧ 1 < (rested []).chain.length := by
  decide

theorem test_witness_PartialByteInShiftStage : Sound (rested [.issueWhenReady 0x160#10]) ∧
    (rested [.issueWhenReady 0x160#10]).seq = .idle ∧ RestInv (rested [.issueWhenReady 0x160#10]) ∧
    decode 0x160#10 = .byteShift 0x60#8 ∧ patient [] = true ∧
    (rested [.issueWhenReady 0x160#10]).chain = ⟨0x68#8, 0x12#8⟩ :: [⟨0x24#8, 0x00#8⟩] ∧ 1 ≤ 1 ∧ 8 ≤ 8 := by decide

theorem test_witness_ByteShiftEvents : Sound (rested [.issueWhenReady 0x1FF#10]) ∧
    (rested [.issueWhenReady 0x1FF#10]).seq = .idle ∧ RestInv (rested [.issueWhenReady 0x1FF#10]) ∧
    decode 0x1FF#10 = .byteShift 0xFF#8 ∧ patient [] = true := by decide

theorem test_witness_ObservedLevelChanges : restLevels.sck = false ∧ restLevels.rck = false := by decide

theorem test_witness_ByteShiftIsDataIndependent : Sound (rested [.issueWhenReady 0x100#10]) ∧
    (rested [.issueWhenReady 0x100#10]).seq = .idle ∧ RestInv (rested [.issueWhenReady 0x100#10]) ∧
    decode 0x100#10 = .byteShift 0x00#8 ∧ patient [] = true ∧ 1 ≤ 1 ∧ 64 ≤ 64 := by decide

theorem test_witness_LatchModesEndAlike : Sound (rested [.issueWhenReady 0x1A5#10]) ∧
    (rested [.issueWhenReady 0x1A5#10]).seq = .idle ∧ RestInv (rested [.issueWhenReady 0x1A5#10]) ∧
    decode 0x1A5#10 = .byteShift 0xA5#8 ∧ patient [] = true := by decide

theorem test_witness_BytesTravelDownTheChain :
    Sound (rested [.issueWhenReady 0x112#10, .issueWhenReady 0x134#10]) ∧
    RestInv (rested [.issueWhenReady 0x112#10, .issueWhenReady 0x134#10]) ∧
    (rested [.issueWhenReady 0x112#10, .issueWhenReady 0x134#10]).host =
      [0x12#8, 0x34#8].map (fun v => .issueWhenReady (encode (.byteShift v))) ++ [] ∧ patient [] = true ∧
    (rested []).host = ([] : List Byte).map (fun v => HostMove.issueWhenReady (encode (.byteShift v))) ++ [] := by decide

theorem test_witness_DisabledByteStaysHidden : Sound (rested [.issueWhenReady 0x1FC#10]) ∧
    (rested [.issueWhenReady 0x1FC#10]).seq = .idle ∧ RestInv (rested [.issueWhenReady 0x1FC#10]) ∧
    (rested [.issueWhenReady 0x1FC#10]).lvl.oeN = true ∧ patient [] = true ∧ decode 0x1FC#10 = .byteShift 0xFC#8 ∧
    0 ≤ 65 ∧ 65 ≤ 65 := by decide

theorem test_witness_OperationsAlwaysEnd :
    (Sound (constructing 7#3 restLevels []) ∧ (constructing 7#3 restLevels []).busy = true ∧
      patient (constructing 7#3 restLevels []).host = true ∧ 0 < remaining (constructing 7#3 restLevels [])) ∧
    Sound (shifting 7#3 7#3 restLevels []) ∧ (shifting 7#3 7#3 restLevels []).busy = true ∧
    0 < remaining (shifting 7#3 7#3 restLevels []) ∧ remaining (shifting 0#3 0#3 restLevels []) = 64 := by decide

/-- A state for each clause about a gating command; the one already at the level comes second. -/
theorem test_witness_EnableOutputShowsLatches : opField 0x2AB#10 = 0b10#2 ∧ (rested []).seq = .idle ∧ RestInv (rested []) ∧
    RestInv { rested [] with lvl := ⟨false, false, false, true, false⟩ } ∧
    { rested [] with lvl := ⟨false, false, false, true, false⟩ }.lvl.oeN = false ∧
    (shifting 0#3 0#3 restLevels []).busy = true ∧ State.reset.seq = .unconstructed := by decide

theorem test_witness_DisableOutputBlanks : opField 0x3FF#10 = 0b11#2 ∧ (rested []).seq = .idle ∧ RestInv (rested []) ∧
    (rested []).lvl.oeN = true ∧ (constructing 0#3 restLevels []).busy = true ∧
    State.reset.seq = .unconstructed := by decide

theorem test_witness_GatingIsIdempotent : (rested []).seq = .idle ∧ RestInv (rested []) ∧
    (∃ t u, exec (.enableOutput 0#8) (rested []) = .next t ∧ exec (.enableOutput 1#8) t = .next u) ∧
    (∃ t u, exec (.disableOutput 0#8) (rested []) = .next t ∧ exec (.disableOutput 1#8) t = .next u) :=
  ⟨by decide, by decide, ⟨_, _, rfl, rfl⟩, ⟨_, _, rfl, rfl⟩⟩

theorem test_witness_CommandFrames :
    (∃ t, exec (.construct 0#8) (rested []) = .next t) ∧ (∃ t, exec (.byteShift 0#8) (rested []) = .next t) ∧
    (∃ t, exec (.enableOutput 0#8) (rested []) = .next t) ∧ (∃ t, exec (.disableOutput 0#8) (rested []) = .next t) ∧
    RestInv (rested []) ∧
    (∃ t, exec (.byteShift 0#8) State.reset = .next t ∧ t.fault ≠ State.reset.fault) :=
  ⟨⟨_, rfl⟩, ⟨_, rfl⟩, ⟨_, rfl⟩, ⟨_, rfl⟩, by decide, _, rfl, by decide⟩

theorem test_witness_MicroStepFrames :
    (LineInv (shifting 0#3 0#3 restLevels []) ∧ (shifting 0#3 0#3 restLevels []).busy = true) ∧
    (LineInv (shifting 6#3 7#3 latchLevels []) ∧ (shifting 6#3 7#3 latchLevels []).busy = true) ∧
    (LineInv (constructing 0#3 restLevels []) ∧ (constructing 0#3 restLevels []).busy = true) ∧
    LineInv (constructing 2#3 restLevels []) ∧
    LineInv { constructing 3#3 ⟨false, false, false, false, true⟩ [] with chain := [⟨0x00#8, 0x12#8⟩] } ∧
    LineInv (shifting 3#3 0#3 ⟨true, false, false, true, true⟩ []) :=
  ⟨⟨by decide, by decide⟩, ⟨by decide, by decide⟩, ⟨by decide, by decide⟩, by decide, by decide, by decide⟩

theorem test_witness_LineInvKeptByEveryStep : LineInv State.reset ∧ LineInv (rested []) ∧
    (∃ t, step (rested [.issueWhenReady 0x134#10]) = .next t) ∧
    LineInv (shifting 5#3 7#3 restLevels []) ∧ (∃ t, step (shifting 5#3 7#3 restLevels []) = .next t) :=
  ⟨by decide, by decide, ⟨_, rfl⟩, by decide, ⟨_, rfl⟩⟩

theorem test_witness_ParametersNeverChange : ∃ t, step (rested [.pass]) = .next t := ⟨_, rfl⟩

/-- I0 on undriven lines: DIR changes. -/
theorem test_witness_DriveModeOnlyBecomesOut :
    keepsPower (constructing 0#3 restLevels []) = true ∧ Sound (constructing 0#3 restLevels []) ∧
    controllerMoves (constructing 0#3 restLevels []) = true ∧ (constructing 0#3 restLevels []).dir.get .sck = .out ∧
    ∃ t, step { State.reset with seq := .init } = .next t ∧ t.dir ≠ State.reset.dir :=
  ⟨by decide, by decide, by decide, by decide, _, rfl, by decide⟩

theorem test_witness_DregWrittenOnlyByByteShift : keepsPower (rested [.issue 0x1FC#10]) = true ∧
    ∃ t, step (rested [.issue 0x1FC#10]) = .next t ∧ t.dreg ≠ (rested []).dreg := ⟨by decide, _, rfl, by decide⟩

theorem test_witness_DelaysWrittenOnlyByConstruct : keepsPower (rested [.issue 0x000#10]) = true ∧
    ∃ t, step (rested [.issue 0x000#10]) = .next t ∧ t.cfgSettle ≠ (rested []).cfgSettle := ⟨by decide, _, rfl, by decide⟩

/-- The last increment, none after it, and the acceptance of a BYTESHIFT after BITIDX was 7. -/
theorem test_witness_BitIndexCountsUp :
    (Sound (shifting 7#3 6#3 restLevels []) ∧ keepsPower (shifting 7#3 6#3 restLevels []) = true ∧
      controllerMoves (shifting 7#3 6#3 restLevels []) = true ∧ (shifting 7#3 6#3 restLevels []).bitIdx.toNat < 7) ∧
    (∃ t, step (shifting 7#3 6#3 restLevels []) = .next t ∧ t.bitIdx = 7#3) ∧
    (∃ t, step (shifting 7#3 7#3 latchLevels []) = .next t ∧ t.bitIdx = 7#3) ∧
    (Sound { rested [.issue 0x1FC#10] with bitIdx := 7#3 } ∧
      issued { rested [.issue 0x1FC#10] with bitIdx := 7#3 } = some (.byteShift 0xFC#8)) ∧
    ∃ t, step { rested [.issue 0x1FC#10] with bitIdx := 7#3 } = .next t ∧ t.bitIdx ≠ 7#3 :=
  ⟨by decide, ⟨_, rfl, by decide⟩, ⟨_, rfl, by decide⟩, by decide, _, rfl, by decide⟩

theorem test_witness_BusyRisesAndFalls : (rested []).busy = false ∧ (rested []).seq = .idle ∧
    keepsPower (rested [.issue 0x100#10]) = true ∧ Sound (shifting 7#3 7#3 latchLevels []) ∧
    controllerMoves (shifting 7#3 7#3 latchLevels []) = true ∧
    (∃ t, step (rested [.issue 0x100#10]) = .next t ∧ t.busy = true) ∧
    (∃ t, step (shifting 7#3 7#3 latchLevels []) = .next t ∧ t.busy = false) ∧
    (∃ t, step (constructing 7#3 restLevels []) = .next t ∧ t.busy = false) :=
  ⟨by decide, by decide, by decide, by decide, by decide, ⟨_, rfl, by decide⟩, ⟨_, rfl, by decide⟩, _, rfl, by decide⟩

theorem test_witness_ConstructedRisesAndFalls : Sound (constructing 7#3 restLevels []) ∧
    controllerMoves (constructing 7#3 restLevels []) = true ∧ keepsPower (rested [.issue 0x000#10]) = true ∧
    (rested []).busy = false ∧
    (∃ t, step (constructing 7#3 restLevels []) = .next t ∧ t.constructed = true) ∧
    (∃ t, step (rested [.issue 0x000#10]) = .next t ∧ t.constructed = false) :=
  ⟨by decide, by decide, by decide, by decide, ⟨_, rfl, by decide⟩, _, rfl, by decide⟩

theorem test_witness_TraceOnlyGrows : keepsPower (shifting 6#3 7#3 latchLevels []) = true ∧
    ∃ t, step (shifting 6#3 7#3 latchLevels []) = .next t := ⟨by decide, _, rfl⟩

theorem test_witness_LevelsChangeOnlyByLineWrite : keepsPower (shifting 2#3 7#3 restLevels []) = true ∧
    ∃ t, step (shifting 2#3 7#3 restLevels []) = .next t ∧ t.lvl ≠ (shifting 2#3 7#3 restLevels []).lvl :=
  ⟨by decide, _, rfl, by decide⟩

/-- S5b of bit 7: the latch stages change. -/
theorem test_witness_LatchesChangeOnlyOnRckRise : LineInv (shifting 5#3 7#3 restLevels []) ∧
    (shifting 5#3 7#3 restLevels []).allOut = true ∧ keepsPower (shifting 5#3 7#3 restLevels []) = true ∧
    ∃ t, step (shifting 5#3 7#3 restLevels []) = .next t ∧
      latchStages t ≠ latchStages (shifting 5#3 7#3 restLevels []) := ⟨by decide, by decide, by decide, _, rfl, by decide⟩

theorem test_witness_LineConfigEffect : (rested []).dir.get .oeN = .out ∧ State.reset.dir.get .sck = .undriven := by
  decide

/-- A rewrite with CLR_n high, and one with CLR_n low and the shift stages clear. -/
theorem test_witness_LineWriteEffect : (rested []).allOut = true ∧ (rested []).lvl.get .sck = false ∧
    { rested [] with lvl := ⟨false, false, false, false, true⟩, chain := [⟨0x00#8, 0x12#8⟩] }.allOut = true ∧
    AllClear { rested [] with lvl := ⟨false, false, false, false, true⟩, chain := [⟨0x00#8, 0x12#8⟩] }.chain := by decide

theorem test_witness_OnlyThreeThingsReact :
    chainReact restLevels ⟨true, false, false, true, true⟩ .sck (rested []).chain ≠ (rested []).chain ∧
    chainReact restLevels ⟨false, false, true, true, true⟩ .rck (rested []).chain ≠ (rested []).chain ∧
    chainReact restLevels ⟨false, false, false, false, true⟩ .ser (rested []).chain ≠ (rested []).chain := by decide

/-- CLR_n low with a rising RCK, and with none. -/
theorem test_witness_ClearIsALevel :
    (⟨false, false, true, false, true⟩ : PerLine Level).clrN = false ∧
    (Line.rck = .rck ∧ restLevels.rck = false ∧ (⟨false, false, true, false, true⟩ : PerLine Level).rck = true) ∧
    ¬ (Line.sck = .rck ∧ restLevels.rck = false ∧ (⟨true, false, false, false, true⟩ : PerLine Level).rck = true) := by
  decide

theorem test_witness_ShiftMovesEveryCell :
    (⟨true, true, false, true, true⟩ : PerLine Level).clrN = true ∧ restLevels.sck = false ∧
    (⟨true, true, false, true, true⟩ : PerLine Level).sck = true ∧
    (rested []).chain[0]? = some ⟨0x68#8, 0x12#8⟩ ∧ (rested []).chain[1]? = some ⟨0x24#8, 0x00#8⟩ := by decide

theorem test_witness_LatchCopiesShiftStages : restLevels.rck = false ∧ latchLevels.rck = true ∧
    latchLevels.clrN = true ∧ (⟨false, false, true, false, true⟩ : PerLine Level).rck = true ∧
    (⟨false, false, true, false, true⟩ : PerLine Level).clrN = false := by decide

theorem test_witness_OutputsAreGatedLatches : (rested []).dir.oeN = .out ∧ (rested []).lvl.oeN = true ∧
    { rested [] with lvl := ⟨false, false, false, true, false⟩ }.lvl.oeN = false := by decide

theorem test_witness_WaitsOnlyRecord :
    ((constructing 6#3 restLevels []).seq = .init ∧ (constructing 6#3 restLevels []).stepReg = 6#3) ∧
    (shifting 1#3 0#3 restLevels []).seq = .shift ∧ (shifting 1#3 0#3 restLevels []).stepReg = 1#3 ∧
    (shifting 6#3 7#3 latchLevels []).stepReg = 6#3 := by decide

theorem test_witness_WiredKeptByEveryStep : Wired State.reset ∧ (∃ t, step State.reset = .next t) ∧
    Wired (rested [.powerCycle]) ∧ (∃ t, step (rested [.powerCycle]) = .next t) ∧
    (rested []).params.physicalPin .sck = (rested []).params.physicalPin .sck :=
  ⟨by decide, ⟨_, rfl⟩, by decide, ⟨_, rfl⟩, rfl⟩

end Sys2Proof.Machine
end

section
/-! SUPPORT. Proofs of the statements on the scope (00_scope.md): what no step changes, the premises of a run, the step
as `exec` of the decoded word, and a run that has ended. -/

namespace Sys2Proof.Machine

/-! ### The parameters (00_scope.md R5, R6) -/

/-- A command leaves the parameters and N_DEV. -/
theorem exec_keeps_params {i : Instr} {s t : State} (h : exec i s = .next t) :
    t.params = s.params ∧ t.chain.length = s.chain.length := by
  rcases exec_cases h with ⟨f, -, rfl⟩ | ⟨d, -, -, rfl⟩ | ⟨d, -, -, rfl⟩ | ⟨d, -, -, rfl⟩ | ⟨d, -, -, rfl⟩
  · exact ⟨rfl, rfl⟩
  · exact ⟨rfl, rfl⟩
  · exact ⟨rfl, rfl⟩
  · exact ⟨lineWrite_params .., lineWrite_chain_length ..⟩
  · exact ⟨lineWrite_params .., lineWrite_chain_length ..⟩

/-- The return of power leaves the parameters and N_DEV, though not what the devices hold. -/
theorem powerOn_keeps_params (s : State) :
    (powerOn s).params = s.params ∧ (powerOn s).chain.length = s.chain.length := ⟨rfl, freeChain_length ..⟩

/-- Settles O38, by the cases of a step. -/
theorem parametersNeverChange : Obligations.ParametersNeverChange := by
  intro s t h
  rcases step_cases h with ⟨rest, -, rfl⟩ | ⟨-, -, f, rest, rfl⟩ | ⟨-, -, -, -, -, -, rest, rfl⟩ |
    ⟨-, -, -, -, -, rest, rfl⟩ | ⟨-, -, -, i, rest, u, -, he, rfl⟩ | ⟨-, -, -, -, a, b, rest, rfl⟩
  · exact powerOn_keeps_params (s.setHost rest)
  · exact ⟨rfl, rfl⟩
  · exact ⟨controllerStep_params s, controllerStep_chain_length s⟩
  · exact ⟨rfl, rfl⟩
  · exact exec_keeps_params (s := s.setHost rest) (t := u) he
  · exact ⟨rfl, rfl⟩

/-- The premises on the wiring speak of the parameters and N_DEV alone. -/
theorem wired_congr {s t : State} (hp : t.params = s.params) (hn : t.chain.length = s.chain.length) :
    Wired t ↔ Wired s := by
  rw [Wired, Wired, hp, ← List.length_pos_iff, hn, List.length_pos_iff]

/-- Under the binding premises the five lines are on five physical pins (60_exceptions.md R114). -/
theorem physicalPin_injective {p : Params} (h : p.bindingOk = true) : Function.Injective p.physicalPin :=
  fun l m => ((Params.bindingOk_iff p).1 h).1 l m

/-- Settles O56: no step changes a parameter or N_DEV, and the premises speak of nothing else. -/
theorem wiredKeptByEveryStep : Obligations.WiredKeptByEveryStep := by
  refine ⟨by decide, fun s t hw h => ?_, fun s ⟨hb, _⟩ l m => @physicalPin_injective s.params hb l m⟩
  obtain ⟨hp, hn⟩ := parametersNeverChange s t h
  exact (wired_congr hp hn).2 hw

/-! ### The step (00_scope.md R7) -/

/-- What a table word that decodes says: its number is a command word, and that word decodes to the command. -/
theorem decodeTableWord_eq_some {nbits w : Nat} {i : Instr} (h : decodeTableWord nbits w = some i) :
    w % 2 ^ nbits < 2 ^ 10 ∧ decode (BitVec.ofNat 10 (w % 2 ^ nbits)) = i := by
  unfold decodeTableWord decodeWord at h
  by_cases hw : w % 2 ^ nbits < 2 ^ 10
  · rw [if_pos hw] at h
    exact ⟨hw, Option.some.inj h⟩
  · rw [if_neg hw] at h
    cases h

/-- A command presented in the very next step is issued whatever BUSY is (60_exceptions.md R112). -/
theorem step_issue {s : State} {w : CmdWord} {rest : List HostMove} (hs : Sound s) (hh : s.host = .issue w :: rest) :
    step s = redrawNext (exec (decode w) (s.setHost rest)) := by
  rw [step_sound (by simp [keepsPower, hh]) hs]
  simp only [hostOrController, hh]

/-- While BUSY = 1 a host that keeps its contract lets the controller move (20_memory.md R31). -/
theorem step_issueWhenReady_busy {s : State} {w : CmdWord} {rest : List HostMove} (hs : Sound s) (hb : s.busy = true)
    (hh : s.host = .issueWhenReady w :: rest) : step s = .next (redraw (controllerStep s)) := by
  rw [step_sound (by simp [keepsPower, hh]) hs]
  simp only [hostOrController, hh, hb, if_true, controllerTurn, redrawNext]

/-- Settles O8, from what a step does with each of the two moves that issue a command. -/
theorem stepIssuesDecodedCommand : Obligations.StepIssuesDecodedCommand := by
  refine ⟨fun s nbits w i hs hd => ?_, fun s w rest hs hh => ?_, fun t => ⟨rfl, rfl, redraw_of_allOut⟩⟩
  · obtain ⟨hw, rfl⟩ := decodeTableWord_eq_some hd
    rw [State.withFetchWord, presentWord, if_pos hw]
    exact step_issue (s := s.setHost _) hs rfl
  · cases hb : s.busy with
    | true => exact step_issueWhenReady_busy hs hb hh
    | false => exact step_issueWhenReady hs hb hh

/-! ### A run that has ended (00_scope.md R7) -/

/-- `t` is `s` after the host's next `n` moves, but for the inputs, FAULT and the counter of free values. -/
def SameAfterMoves (n : Nat) (s t : State) : Prop :=
  t = { s with cfgSettleIn := t.cfgSettleIn, cfgDelayIn := t.cfgDelayIn, fault := t.fault,
               host := s.host.drop n, free := t.free }

theorem SameAfterMoves.trans {m n : Nat} {s t u : State} (hst : SameAfterMoves m s t) (htu : SameAfterMoves n t u) :
    SameAfterMoves (m + n) s u := by
  unfold SameAfterMoves at *
  rw [htu, hst, ← List.drop_drop]

theorem keepsPower_of_notMem_take {s : State} {n : Nat} (h : .powerCycle ∉ s.host.take (n + 1)) :
    keepsPower s = true := by
  unfold keepsPower
  split
  · rename_i hh
    exact absurd (by simp [hh]) h
  · rfl

/-- The next `n` moves after a step are among the next `n + 1` before it. -/
theorem SameAfterMoves.mem_take {s t : State} (h : SameAfterMoves 1 s t) {n : Nat} {m : HostMove}
    (hm : m ∈ t.host.take n) : m ∈ s.host.take (n + 1) := by
  rw [show t.host = s.host.drop 1 from congrArg State.host h, List.take_drop, Nat.add_comm 1 n] at hm
  exact List.mem_of_mem_drop hm

/-- A step of an ended run before power returns: it keeps all but what `SameAfterMoves` lets go, a quiet move records no
fault, and without a fault the run stays ended. -/
theorem step_runEnded_sameAfter {s : State} (hs : Sound s) (he : RunEnded s) (hk : keepsPower s = true) :
    ∃ t, step s = .next t ∧ SameAfterMoves 1 s t ∧ ((∀ m ∈ s.host.take 1, quietMove m = true) → t.fault = none) ∧
      (t.fault = none → Sound t ∧ RunEnded t) := by
  obtain ⟨hc, a, b, f, hq, hstep⟩ := step_runEnded hs he hk
  refine ⟨_, hstep, ?_, fun h => hq (List.all_eq_true.2 h), fun hf => ⟨⟨hf, hs.2⟩, hc, he.2.1, hf⟩⟩
  simp [SameAfterMoves, redraw, State.drew]

/-- A run from a faulted state answers a next state before power returns only if it has no step. -/
theorem run_faulted_eq_zero {s t : State} {f : Fault} {n : Nat} (hf : s.fault = some f)
    (hp : .powerCycle ∉ s.host.take n) (h : Host.Core.run Sys2Proof.core n s = .next t) : n = 0 := by
  cases n with
  | zero => rfl
  | succ n =>
    rw [run_succ_fault (step_faulted (keepsPower_of_notMem_take hp) hf)] at h
    cases h

/-- Until power returns an ended run stays as `SameAfterMoves` says, and stays ended while no fault is recorded. -/
theorem run_runEnded {s t : State} {n : Nat} (hs : Sound s) (he : RunEnded s) (hp : .powerCycle ∉ s.host.take n)
    (h : Host.Core.run Sys2Proof.core n s = .next t) :
    SameAfterMoves n s t ∧ (t.fault = none → RunEnded t) := by
  induction n generalizing s with
  | zero =>
    cases h
    exact ⟨rfl, fun _ => he⟩
  | succ n ih =>
    obtain ⟨u, hu, hsame, -, hended⟩ := step_runEnded_sameAfter hs he (keepsPower_of_notMem_take hp)
    rw [run_succ hu] at h
    have hp' : .powerCycle ∉ u.host.take n := fun hm => hp (hsame.mem_take hm)
    rw [Nat.add_comm n 1]
    cases hf : u.fault with
    | none =>
      obtain ⟨hs', he'⟩ := hended hf
      obtain ⟨hsame', hended'⟩ := ih hs' he' hp' h
      exact ⟨hsame.trans hsame', hended'⟩
    | some f =>
      obtain rfl := run_faulted_eq_zero hf hp' h
      cases h
      exact ⟨hsame, fun hn => (hended hn).2⟩

/-- Moves that set the inputs or do nothing all complete in an ended run, and leave it ended. -/
theorem run_runEnded_quiet {s : State} {n : Nat} (hs : Sound s) (he : RunEnded s)
    (hq : ∀ m ∈ s.host.take n, quietMove m = true) : ∃ t, Host.Core.run Sys2Proof.core n s = .next t ∧ RunEnded t := by
  induction n generalizing s with
  | zero => exact ⟨s, rfl, he⟩
  | succ n ih =>
    have hp : .powerCycle ∉ s.host.take (n + 1) := fun hm => absurd (hq _ hm) (by decide)
    obtain ⟨u, hu, hsame, hnone, hended⟩ := step_runEnded_sameAfter hs he (keepsPower_of_notMem_take hp)
    have hf : u.fault = none := hnone fun m hm => hq m (List.take_subset_take_left _ (Nat.le_add_left 1 n) hm)
    obtain ⟨hs', he'⟩ := hended hf
    rw [run_succ hu]
    exact ih hs' he' fun m hm => hq m (hsame.mem_take hm)

/-- With no move left and BUSY = 0 a step is `redraw` alone (log entries 3 and 10). -/
theorem step_no_move {s : State} (hs : Sound s) (hb : s.busy = false) (hh : s.host = []) :
    step s = .next (redraw s) := by
  rw [step_sound (by simp [keepsPower, hh]) hs]
  simp only [hostOrController, hh, controllerTurn, controllerStep_idle hb, redrawNext]

theorem run_no_move {s : State} (hs : Sound s) (hb : s.busy = false) (hh : s.host = []) (n : Nat) :
    Host.Core.run Sys2Proof.core n s = .next (redraw^[n] s) := by
  induction n generalizing s with
  | zero => rfl
  | succ n ih =>
    rw [run_succ (step_no_move hs hb hh)]
    exact ih (s := redraw s) hs hb hh

/-- Drawing the undriven wires anew, however often, changes the counter of free values alone. -/
theorem redraw_iterate_eq (n : Nat) (s : State) : redraw^[n] s = { s with free := (redraw^[n] s).free } := by
  induction n generalizing s with
  | zero => rfl
  | succ n ih => exact ih (redraw s)

/-- Settles O7: each clause is an induction on the number of steps, by what a step of an ended run can do. -/
theorem endedRunStays : Obligations.EndedRunStays := by
  intro s hs he n
  have hb : s.busy = false := he.2.1
  refine ⟨fun t hp h => run_runEnded hs he hp h, fun hq => run_runEnded_quiet hs he (List.all_eq_true.1 hq),
    fun hh => ⟨_, run_no_move hs hb hh n, redraw_iterate_eq n s⟩, fun hh ha => ?_⟩
  rw [run_no_move hs hb hh, Function.iterate_fixed (redraw_of_allOut ha)]

end Sys2Proof.Machine
end

section
/-! SUPPORT. Proofs of the statements on the state (10_state.md): what a micro-step and a step within a run can do to the
registers, said once as `MicroEffect` and `RunEffect`; the invariant of the sequencer positions; what each register is
written by; and the bit cycle. -/

namespace Sys2Proof.Machine

/-! ### What a micro-step can do (10_state.md R13) -/

/-- `u` is what a micro-step makes of the busy state `s`, whatever the lines and the chain hold: one primitive on the
lines and the advance of the sequencer. -/
inductive MicroEffect (s : State) : State → Prop where
  | config (hq : s.seq = .init) (hc : s.stepReg = 0#3) : MicroEffect s ((configAll s).setStep 1#3)
  | write (l : Line) (v : Level) {c : BitVec 3} (hc : s.stepReg ≠ 7#3 ∧ c = s.stepReg + 1#3) :
      MicroEffect s ((lineWrite l v s).setStep c)
  | wait (n : Ticks) {c : BitVec 3} (hc : s.stepReg ≠ 7#3 ∧ c = s.stepReg + 1#3) :
      MicroEffect s ((waitTicks n s).setStep c)
  | pass {c : BitVec 3} (hc : s.stepReg ≠ 7#3 ∧ c = s.stepReg + 1#3) : MicroEffect s (s.setStep c)
  | constructEnds (hq : s.seq = .init) (hc : s.stepReg = 7#3) : MicroEffect s ((lineWrite .clrN true s).setSeq .idle)
  | nextBit (hq : s.seq = .shift) (hc : s.stepReg = 7#3) (hb : s.bitIdx ≠ 7#3) :
      MicroEffect s (((lineWrite .rck false s).setBitIdx (s.bitIdx + 1#3)).setStep 0#3)
  | byteShiftEnds (hq : s.seq = .shift) (hc : s.stepReg = 7#3) (hb : s.bitIdx = 7#3) :
      MicroEffect s ((lineWrite .rck false s).setSeq .idle)

theorem initMicroStep_effect {s : State} (hq : s.seq = .init) {m : InitStep} (hm : s.stepReg = m.code) :
    MicroEffect s (initMicroStep m s) := by
  cases m with
  | i0 => exact .config hq hm
  | i6 => exact .wait s.cfgSettle (by rw [hm]; decide)
  | i7 => exact .constructEnds hq hm
  | i1 | i2 | i3 | i4 | i5 => exact .write _ _ (by rw [hm]; decide)

theorem shiftMicroStep_effect {s : State} (hq : s.seq = .shift) {m : ShiftStep} (hm : s.stepReg = m.code) :
    MicroEffect s (shiftMicroStep m s) := by
  cases m with
  | s1 | s3 | s5a => exact .write _ _ (by rw [hm]; decide)
  | s2 | s4 | s6 => exact .wait s.cfgDelay (by rw [hm]; decide)
  | s5b =>
    show MicroEffect s ((if latchNow s.params.latchMode s.bitIdx then lineWrite .rck true s else s).setStep 6#3)
    split
    · exact .write .rck true (by rw [hm]; decide)
    · exact .pass (by rw [hm]; decide)
  | s7 =>
    show MicroEffect s (nextBit (lineWrite .rck false s))
    by_cases hb : s.bitIdx = 7#3
    · rw [nextBit_last (s := lineWrite .rck false s) hb]
      exact .byteShiftEnds hq hm hb
    · rw [nextBit_more (s := lineWrite .rck false s) hb]
      exact .nextBit hq hm hb

theorem controllerStep_effect {s : State} (hb : s.busy = true) : MicroEffect s (controllerStep s) := by
  rcases (busy_iff s).1 hb with hq | hq
  · rw [controllerStep_init hq]
    exact initMicroStep_effect hq (code_initStepOf s.stepReg).symm
  · rw [controllerStep_shift hq]
    exact shiftMicroStep_effect hq (code_shiftStepOf s.stepReg).symm

/-- The last micro-step of an operation: I7, or S7 of bit 7 (10_state.md R16). -/
def AtLastMicroStep (s : State) : Prop :=
  (s.seq = .init ∧ s.stepReg = 7#3) ∨ (s.seq = .shift ∧ s.stepReg = 7#3 ∧ s.bitIdx = 7#3)

section
variable {s u : State} (h : MicroEffect s u)
include h

/-- Before the eighth micro-step STEP counts up, and SEQ and BITIDX stay. -/
theorem MicroEffect.advance (h7 : s.stepReg ≠ 7#3) :
    u.seq = s.seq ∧ u.stepReg = s.stepReg + 1#3 ∧ u.bitIdx = s.bitIdx := by
  cases h with
  | config hq hc => exact ⟨by simp, by simp [hc], by simp⟩
  | write l v hc => exact ⟨rfl, hc.2, rfl⟩
  | wait n hc => exact ⟨rfl, hc.2, rfl⟩
  | pass hc => exact ⟨rfl, hc.2, rfl⟩
  | constructEnds hq hc => exact absurd hc h7
  | nextBit hq hc hb => exact absurd hc h7
  | byteShiftEnds hq hc hb => exact absurd hc h7

/-- SEQ changes in the last micro-step of an operation alone, to IDLE (10_state.md R11, R13). -/
theorem MicroEffect.seq_cases : (¬ AtLastMicroStep s ∧ u.seq = s.seq) ∨ (AtLastMicroStep s ∧ u.seq = .idle) := by
  have early (h7 : s.stepReg ≠ 7#3) : ¬ AtLastMicroStep s ∧ u.seq = s.seq :=
    ⟨fun hl => hl.elim (fun hl => h7 hl.2) (fun hl => h7 hl.2.1), (h.advance h7).1⟩
  cases h with
  | config hq hc => exact .inl (early (by rw [hc]; decide))
  | write l v hc => exact .inl (early hc.1)
  | wait n hc => exact .inl (early hc.1)
  | pass hc => exact .inl (early hc.1)
  | constructEnds hq hc => exact .inr ⟨.inl ⟨hq, hc⟩, rfl⟩
  | nextBit hq hc hb => exact .inl ⟨by simp [AtLastMicroStep, hq, hb], rfl⟩
  | byteShiftEnds hq hc hb => exact .inr ⟨.inr ⟨hq, hc, hb⟩, rfl⟩

/-- BITIDX changes in S7 before bit 7 alone (10_state.md R15). -/
theorem MicroEffect.bitIdx_cases : u.bitIdx = s.bitIdx ∨
    (s.seq = .shift ∧ s.stepReg = 7#3 ∧ s.bitIdx ≠ 7#3 ∧ u.bitIdx = s.bitIdx + 1#3) := by
  by_cases h7 : s.stepReg = 7#3
  · cases h with
    | nextBit hq hc hb => exact .inr ⟨hq, hc, hb, rfl⟩
    | config hq hc => exact .inl (by simp)
    | write | wait | pass | constructEnds | byteShiftEnds => exact .inl rfl
  · exact .inl (h.advance h7).2.2

/-- S7 before bit 7 advances BITIDX (10_state.md R13). -/
theorem MicroEffect.bitIdx_s7 (hq : s.seq = .shift) (hc : s.stepReg = 7#3) (hb : s.bitIdx ≠ 7#3) :
    u.bitIdx = s.bitIdx + 1#3 := by
  cases h with
  | config hq' => simp [hq] at hq'
  | write l v hc' => exact absurd hc hc'.1
  | wait n hc' => exact absurd hc hc'.1
  | pass hc' => exact absurd hc hc'.1
  | constructEnds hq' => simp [hq] at hq'
  | nextBit => rfl
  | byteShiftEnds _ _ hb' => exact absurd hb' hb

/-- DIR is written by I0 alone, which makes every line an output (10_state.md R20). -/
theorem MicroEffect.dir_cases :
    u.dir = s.dir ∨ (s.seq = .init ∧ s.stepReg = 0#3 ∧ u.allOut = true) := by
  cases h with
  | config hq hc => exact .inr ⟨hq, hc, by simp⟩
  | write | wait | pass | constructEnds | nextBit | byteShiftEnds => exact .inl rfl

/-- LVL changes by at most one recorded write (10_state.md R21). -/
theorem MicroEffect.lvl_cases :
    u.lvl = s.lvl ∨ ∃ l v, u.trace = s.trace ++ [.write l v] ∧ u.lvl = s.lvl.set l v := by
  cases h with
  | config => exact .inl (by simp)
  | wait | pass => exact .inl rfl
  | write | constructEnds | nextBit | byteShiftEnds => exact .inr ⟨_, _, rfl, rfl⟩

end

/-! ### What a step within a run can do (00_scope.md R7) -/

/-- `t` is what a step of `s` within a run makes of it. -/
inductive RunEffect (s : State) : State → Prop where
  /-- Nothing but the inputs, FAULT and the moves to come. -/
  | quiet (a b : Ticks) (f : Option Fault) (r : List HostMove) :
      RunEffect s (redraw { s with cfgSettleIn := a, cfgDelayIn := b, fault := f, host := r })
  | micro (r : List HostMove) (hm : controllerMoves s = true) (hb : s.busy = true) :
      RunEffect s (redraw ((controllerStep s).setHost r))
  | construct (d : Byte) (r : List HostMove) (hi : issued s = some (.construct d)) (hb : s.busy = false) :
      RunEffect s (redraw ((beginConstruct s).setHost r))
  | byteShift (d : Byte) (r : List HostMove) (hi : issued s = some (.byteShift d)) (hq : s.seq = .idle) :
      RunEffect s (redraw ((beginByteShift d s).setHost r))
  | gate (v : Level) (r : List HostMove) (hq : s.seq = .idle) : RunEffect s (redraw ((lineWrite .oeN v s).setHost r))

theorem exec_effect {s u : State} {i : Instr} {r : List HostMove} (hi : issued s = some i)
    (h : exec i (s.setHost r) = .next u) : RunEffect s (redraw u) := by
  rcases exec_cases h with ⟨f, -, rfl⟩ | ⟨d, rfl, hb, rfl⟩ | ⟨d, rfl, hq, rfl⟩ | ⟨d, -, hq, rfl⟩ | ⟨d, -, hq, rfl⟩
  · exact .quiet s.cfgSettleIn s.cfgDelayIn _ r
  · exact .construct d r hi hb
  · exact .byteShift d r hi hq
  · exact .gate false r hq
  · exact .gate true r hq

/-- Everything a step can do: the return of power, or a step within the run. -/
theorem step_effect {s t : State} (h : step s = .next t) :
    (∃ rest, s.host = .powerCycle :: rest ∧ t = redraw (powerOn (s.setHost rest))) ∨ RunEffect s t := by
  rcases step_cases h with ⟨rest, hh, rfl⟩ | ⟨-, -, f, r, rfl⟩ | ⟨-, -, -, hm, hb, -, r, rfl⟩ |
    ⟨-, -, -, -, -, r, rfl⟩ | ⟨-, -, -, i, r, u, hi, he, rfl⟩ | ⟨-, -, -, -, a, b, r, rfl⟩
  · exact .inl ⟨rest, hh, rfl⟩
  · exact .inr (.quiet s.cfgSettleIn s.cfgDelayIn (some f) r)
  · exact .inr (.micro r hm hb)
  · exact .inr (.quiet s.cfgSettleIn s.cfgDelayIn s.fault r)
  · exact .inr (exec_effect hi he)
  · exact .inr (.quiet a b s.fault r)

theorem step_effect_of_keepsPower {s t : State} (hk : keepsPower s = true) (h : step s = .next t) : RunEffect s t := by
  rcases step_effect h with ⟨rest, hh, -⟩ | he
  · simp [keepsPower, hh] at hk
  · exact he

/-- Where the controller moves, the next state is that of its micro-step. -/
theorem next_of_controllerMoves {s t : State} (hs : Sound s) (hm : controllerMoves s = true) (h : step s = .next t) :
    s.busy = true ∧ ∃ r, t = redraw ((controllerStep s).setHost r) := by
  obtain ⟨r, hr⟩ := step_controllerMoves hs hm
  rw [hr, Host.Outcome.next.injEq] at h
  refine ⟨?_, r, h.symm⟩
  unfold controllerMoves at hm
  split at hm
  · exact hm
  · exact hm
  · exact hm
  · cases hm

/-- The command that a sound state issues next is executed. -/
theorem step_issued {s : State} {i : Instr} (hs : Sound s) (hi : issued s = some i) :
    ∃ r, step s = redrawNext (exec i (s.setHost r)) := by
  unfold issued at hi
  split at hi <;> rename_i hh
  · split at hi <;> rename_i hb
    · cases hi
    · cases hi
      exact ⟨_, step_issueWhenReady hs (Bool.eq_false_iff.2 hb) hh⟩
  · cases hi
    exact ⟨_, step_issue hs hh⟩
  · cases hi

/-! ### The invariant of the sequencer positions -/

theorem lineInv_of_unconstructed {s : State} (hq : s.seq = .unconstructed) : LineInv s := by
  simp [LineInv, hq]

theorem lineInv_of_init {s : State} (hq : s.seq = .init) (h : InitInv s.stepReg.toNat s) : LineInv s :=
  ⟨fun _ => h, by simp [hq], by simp [hq]⟩

theorem lineInv_of_idle {s : State} (hq : s.seq = .idle) (h : RestInv s) : LineInv s :=
  ⟨by simp [hq], fun _ => h, by simp [hq]⟩

theorem lineInv_of_shift {s : State} (hq : s.seq = .shift) (h : ShiftInv s.stepReg.toNat s) : LineInv s :=
  ⟨by simp [hq], by simp [hq], fun _ => h⟩

/-- Settles O36: in UNCONSTRUCTED the invariant demands nothing. -/
theorem lineInvHoldsAtReset : Obligations.LineInvHoldsAtReset := lineInv_of_unconstructed rfl

theorem beginConstruct_lineInv (s : State) : LineInv (beginConstruct s) :=
  lineInv_of_init rfl (by simp [InitInv, beginConstruct, InitStep.code])

/-- BYTESHIFT starts from the lines at rest: no clock is high at S1. -/
theorem beginByteShift_lineInv {s : State} (d : Byte) (hr : RestInv s) : LineInv (beginByteShift d s) := by
  obtain ⟨ha, hs, hk, h1⟩ := hr
  exact lineInv_of_shift rfl ⟨ha, h1, hs, by simp [beginByteShift, ShiftStep.code, hk],
    by simp [beginByteShift, ShiftStep.code]⟩

/-- Each micro-step of CONSTRUCT establishes its line's clause and keeps those of the steps before it. -/
theorem controllerStep_lineInv_init {s : State} (hq : s.seq = .init) (h : InitInv s.stepReg.toNat s) :
    LineInv (controllerStep s) := by
  obtain ⟨ha, ho, hc, hs, hr, hd⟩ := h
  rcases stepReg_cases s.stepReg with e | e | e | e | e | e | e | e <;>
    simp only [e, BitVec.toNat_ofNat, Nat.reducePow, Nat.reduceMod, Nat.reduceLeDiff, forall_const] at ha ho hc hs hr hd
  · rw [init_i0 hq e]
    exact lineInv_of_init (by simpa using hq) (by simp [InitInv])
  · rw [init_i1 hq e ha]
    exact lineInv_of_init hq ⟨fun _ => ha, fun _ => rfl, by simp, by simp, by simp, by simp⟩
  · rw [init_i2 hq e ha]
    exact lineInv_of_init hq (by simpa [InitInv, AllClear] using ⟨ha, ho, fun d => chainClear_sh⟩)
  · rw [init_i3 hq e ha hc.1 hc.2]
    exact lineInv_of_init hq (by simpa [InitInv] using ⟨ha, ho, hc⟩)
  · rw [init_i4 hq e ha hc.1 hc.2]
    exact lineInv_of_init hq (by simpa [InitInv] using ⟨ha, ho, hc, hs⟩)
  · rw [init_i5 hq e ha hc.1 hc.2]
    exact lineInv_of_init hq (by simpa [InitInv] using ⟨ha, ho, hc, hs, hr⟩)
  · rw [init_i6 hq e]
    exact lineInv_of_init hq (by simpa [InitInv] using ⟨ha, ho, hc, hs, hr, hd⟩)
  · rw [init_i7 hq e ha]
    exact lineInv_of_idle rfl ⟨ha, hs, hr, rfl⟩

/-- Each micro-step of BYTESHIFT leaves SCK, RCK and SER at the levels of the next position. -/
theorem controllerStep_lineInv_shift {s : State} (hq : s.seq = .shift) (h : ShiftInv s.stepReg.toNat s) :
    LineInv (controllerStep s) := by
  obtain ⟨ha, h1, hs, hr, hd⟩ := h
  rcases stepReg_cases s.stepReg with e | e | e | e | e | e | e | e <;> rw [e] at hs hr hd
  · rw [shift_s1 hq e ha h1]
    exact lineInv_of_shift hq ⟨ha, h1, hs, hr, fun _ => rfl⟩
  · rw [shift_s2 hq e]
    exact lineInv_of_shift hq ⟨ha, h1, hs, hr, fun _ => hd (by decide)⟩
  · rw [shift_s3 hq e ha h1 hs]
    exact lineInv_of_shift hq ⟨ha, h1, rfl, hr, fun _ => hd (by decide)⟩
  · rw [shift_s4 hq e]
    exact lineInv_of_shift hq ⟨ha, h1, hs, hr, fun _ => hd (by decide)⟩
  · rw [shift_s5a hq e ha h1]
    exact lineInv_of_shift hq ⟨ha, h1, rfl, hr, fun _ => hd (by decide)⟩
  · cases hl : latchNow s.params.latchMode s.bitIdx with
    | true =>
      rw [shift_s5b_latch hq e ha h1 (by simpa using hr) hl]
      exact lineInv_of_shift hq ⟨ha, h1, hs, by simp [hl], fun _ => hd (by decide)⟩
    | false =>
      rw [shift_s5b_pass hq e hl]
      exact lineInv_of_shift hq ⟨ha, h1, hs, by simpa [hl] using hr, fun _ => hd (by decide)⟩
  · rw [shift_s6 hq e]
    exact lineInv_of_shift hq ⟨ha, h1, hs, hr, fun _ => hd (by decide)⟩
  · by_cases hb : s.bitIdx = 7#3
    · rw [shift_s7_last hq e ha h1 hb]
      exact lineInv_of_idle rfl ⟨ha, hs, rfl, h1⟩
    · rw [shift_s7_next hq e ha h1 hb]
      exact lineInv_of_shift hq ⟨ha, h1, hs, by simp, by simp⟩

theorem controllerStep_lineInv {s : State} (h : LineInv s) : LineInv (controllerStep s) := by
  obtain ⟨hinit, -, hshift⟩ := id h
  cases hq : s.seq with
  | init => exact controllerStep_lineInv_init hq (hinit hq)
  | shift => exact controllerStep_lineInv_shift hq (hshift hq)
  | unconstructed | idle => rwa [controllerStep_idle (by simp [State.busy, hq])]

/-- The output gate is no line of the invariant in IDLE. -/
theorem lineWrite_oeN_restInv {s : State} (v : Level) (h : RestInv s) : RestInv (lineWrite .oeN v s) := by
  obtain ⟨ha, hs, hr, h1⟩ := h
  exact ⟨ha, hs, hr, h1⟩

/-- The invariant does not speak of the moves to come, nor of the counter of free values. -/
theorem lineInv_redraw_setHost {s : State} (r : List HostMove) (h : LineInv s) : LineInv (redraw (s.setHost r)) := h

theorem RunEffect.lineInv {s t : State} (he : RunEffect s t) (h : LineInv s) : LineInv t := by
  cases he with
  | quiet => exact h
  | micro r hm hb => exact lineInv_redraw_setHost r (controllerStep_lineInv h)
  | construct d r hi hb => exact lineInv_redraw_setHost r (beginConstruct_lineInv s)
  | byteShift d r hi hq => exact lineInv_redraw_setHost r (beginByteShift_lineInv d (h.2.1 hq))
  | gate v r hq =>
    exact lineInv_redraw_setHost r (lineInv_of_idle (s := lineWrite .oeN v s) hq (lineWrite_oeN_restInv v (h.2.1 hq)))

/-- Settles O37: a return of power leaves UNCONSTRUCTED, and every step within a run keeps the invariant. -/
theorem lineInvKeptByEveryStep : Obligations.LineInvKeptByEveryStep := by
  intro s t h hstep
  rcases step_effect hstep with ⟨rest, -, rfl⟩ | he
  · exact lineInv_of_unconstructed rfl
  · exact he.lineInv h

/-! ### What a micro-step leaves unchanged -/

/-- All five lines are outputs at every position of an operation but I0. -/
theorem LineInv.allOut {s : State} (h : LineInv s) (hb : s.busy = true) (h0 : ¬ (s.seq = .init ∧ s.stepReg = 0#3)) :
    s.allOut = true := by
  obtain ⟨hinit, -, hshift⟩ := h
  rcases (busy_iff s).1 hb with hq | hq
  · refine (hinit hq).1 (Nat.one_le_iff_ne_zero.2 fun hc => h0 ⟨hq, ?_⟩)
    exact BitVec.eq_of_toNat_eq hc
  · exact (hshift hq).1

/-- Where all lines are outputs a micro-step draws no free value. -/
theorem MicroEffect.free_of_allOut {s u : State} (h : MicroEffect s u) (ha : s.allOut = true) : u.free = s.free := by
  have write (l : Line) (v : Level) : (lineWrite l v s).free = s.free := by simp [lineWrite_free, ha]
  cases h with
  | config => simp [configAll_of_allOut ha]
  | wait | pass => rfl
  | write | constructEnds | nextBit | byteShiftEnds => exact write _ _

/-- From I1 on CONSTRUCT leaves the latch stages. -/
theorem init_latchStages {s : State} (hq : s.seq = .init) (h : InitInv s.stepReg.toNat s) (h0 : s.stepReg ≠ 0#3) :
    latchStages (controllerStep s) = latchStages s := by
  obtain ⟨ha, -, hc, -, -, -⟩ := h
  rcases stepReg_cases s.stepReg with e | e | e | e | e | e | e | e <;>
    simp only [e, BitVec.toNat_ofNat, Nat.reducePow, Nat.reduceMod, Nat.reduceLeDiff, forall_const] at ha hc
  · exact absurd e h0
  · rw [init_i1 hq e ha]
    show List.map Device.lt (if s.lvl.clrN = false then chainClear s.chain else s.chain) = _
    split
    · exact chainClear_lt s.chain
    · rfl
  · rw [init_i2 hq e ha]
    exact chainClear_lt s.chain
  · rw [init_i3 hq e ha hc.1 hc.2]; rfl
  · rw [init_i4 hq e ha hc.1 hc.2]; rfl
  · rw [init_i5 hq e ha hc.1 hc.2]; rfl
  · rw [init_i6 hq e]; rfl
  · rw [init_i7 hq e ha]; rfl

/-- From I3 on CONSTRUCT leaves the chain: it is held clear, and is clear already. -/
theorem init_chain {s : State} (hq : s.seq = .init) (h : InitInv s.stepReg.toNat s) (h3 : 3 ≤ s.stepReg.toNat) :
    (controllerStep s).chain = s.chain := by
  obtain ⟨ha, -, hc, -, -, -⟩ := h
  have ha := ha (by omega)
  obtain ⟨h0, hz⟩ := hc h3
  rcases stepReg_cases s.stepReg with e | e | e | e | e | e | e | e
  · simp [e] at h3
  · simp [e] at h3
  · simp [e] at h3
  · rw [init_i3 hq e ha h0 hz]
  · rw [init_i4 hq e ha h0 hz]
  · rw [init_i5 hq e ha h0 hz]
  · rw [init_i6 hq e]
  · rw [init_i7 hq e ha]

/-- BYTESHIFT leaves the chain in every micro-step but S3 and S5b. -/
theorem shift_chain {s : State} (hq : s.seq = .shift) (h : ShiftInv s.stepReg.toNat s) (h2 : s.stepReg ≠ 2#3)
    (h5 : s.stepReg ≠ 5#3) : (controllerStep s).chain = s.chain := by
  obtain ⟨ha, h1, -, -, -⟩ := h
  rcases stepReg_cases s.stepReg with e | e | e | e | e | e | e | e
  · rw [shift_s1 hq e ha h1]
  · rw [shift_s2 hq e]
  · exact absurd e h2
  · rw [shift_s4 hq e]
  · rw [shift_s5a hq e ha h1]
  · exact absurd e h5
  · rw [shift_s6 hq e]
  · by_cases hb : s.bitIdx = 7#3
    · rw [shift_s7_last hq e ha h1 hb]
    · rw [shift_s7_next hq e ha h1 hb]

/-- S3 leaves the latch stages. -/
theorem shift_s3_latchStages {s : State} (hq : s.seq = .shift) (h : ShiftInv s.stepReg.toNat s) (e : s.stepReg = 2#3) :
    latchStages (controllerStep s) = latchStages s := by
  obtain ⟨ha, h1, hs, -, -⟩ := h
  rw [shift_s3 hq e ha h1 (by rw [hs, e]; rfl)]
  exact chainShift_lt _ s.chain

/-- S5b leaves the shift stages, whether it latches or not. -/
theorem shift_s5b_shiftStages {s : State} (hq : s.seq = .shift) (h : ShiftInv s.stepReg.toNat s)
    (e : s.stepReg = 5#3) : shiftStages (controllerStep s) = shiftStages s := by
  obtain ⟨ha, h1, -, hr, -⟩ := h
  cases hl : latchNow s.params.latchMode s.bitIdx with
  | true =>
    rw [shift_s5b_latch hq e ha h1 (by rw [hr, e, hl]; rfl) hl]
    exact chainLatch_sh s.chain
  | false => rw [shift_s5b_pass hq e hl]; rfl

/-- In BYTESHIFT the latch stages change in S5b alone. -/
theorem shift_latchStages {s : State} (hq : s.seq = .shift) (h : ShiftInv s.stepReg.toNat s) (h5 : s.stepReg ≠ 5#3) :
    latchStages (controllerStep s) = latchStages s := by
  by_cases h2 : s.stepReg = 2#3
  · exact shift_s3_latchStages hq h h2
  · exact congrArg (List.map Device.lt) (shift_chain hq h h2 h5)

/-- In BYTESHIFT the shift stages change in S3 alone. -/
theorem shift_shiftStages {s : State} (hq : s.seq = .shift) (h : ShiftInv s.stepReg.toNat s) (h2 : s.stepReg ≠ 2#3) :
    shiftStages (controllerStep s) = shiftStages s := by
  by_cases h5 : s.stepReg = 5#3
  · exact shift_s5b_shiftStages hq h h5
  · exact congrArg (List.map Device.sh) (shift_chain hq h h2 h5)

/-- Settles O35: the registers by what a micro-step can do, the stages of the chain by what the lines hold at its
position. -/
theorem microStepFrames : Obligations.MicroStepFrames := by
  intro s hb h
  have he := controllerStep_effect hb
  obtain ⟨hinit, -, hshift⟩ := id h
  refine ⟨by simp, by simp, by simp, by simp, by simp, by simp, by simp, by simp, fun hq => ?_, fun hq h7 => ?_,
    fun h0 => ⟨?_, he.free_of_allOut (h.allOut hb h0)⟩, fun h0 h5 => ?_, fun h3 h2 => ?_⟩
  · exact he.bitIdx_cases.resolve_right fun ⟨hs, _⟩ => by simp [hq] at hs
  · obtain ⟨hseq, -, hbit⟩ := he.advance h7
    exact ⟨hbit, hseq⟩
  · exact he.dir_cases.resolve_right fun ⟨hq, hc, _⟩ => h0 ⟨hq, hc⟩
  · rcases (busy_iff s).1 hb with hq | hq
    · exact init_latchStages hq (hinit hq) fun hc => h0 ⟨hq, hc⟩
    · exact shift_latchStages hq (hshift hq) fun hc => h5 ⟨hq, hc⟩
  · rcases (busy_iff s).1 hb with hq | hq
    · have hc : 3 ≤ s.stepReg.toNat := Nat.lt_of_not_le fun hc => h3 ⟨hq, hc⟩
      exact congrArg (List.map Device.sh) (init_chain hq (hinit hq) hc)
    · exact shift_shiftStages hq (hshift hq) fun hc => h2 ⟨hq, hc⟩

/-! ### What each register is written by (10_state.md R14 to R21) -/

/-- Settles O9: with no move left the controller has its turn. -/
theorem stepRunsMicroStep : Obligations.StepRunsMicroStep := by
  intro s hs hh
  have hp : patient s.host = true := by rw [hh]; rfl
  cases hq : s.seq with
  | init => rw [step_patient_busy hs (by simp [State.busy, hq]) hp, controllerStep_init hq]
  | shift => rw [step_patient_busy hs (by simp [State.busy, hq]) hp, controllerStep_shift hq]
  | idle | unconstructed => exact step_no_move hs (by simp [State.busy, hq]) hh

/-- Settles O39: of the steps within a run only micro-steps write DIR, and of these only I0. -/
theorem driveModeOnlyBecomesOut : Obligations.DriveModeOnlyBecomesOut := by
  intro s t hk h
  have hdir : t.dir = s.dir ∨ (s.seq = .init ∧ s.stepReg = 0#3 ∧ t.allOut = true) := by
    cases step_effect_of_keepsPower hk h with
    | micro r hm hb => exact (controllerStep_effect hb).dir_cases
    | quiet | construct | byteShift => exact .inl rfl
    | gate => exact .inl (by simp)
  refine ⟨fun l hl => ?_, fun hne => hdir.resolve_left hne, fun hs hm hq hc => ?_⟩
  · rcases hdir with hd | ⟨-, -, ha⟩
    · rwa [hd]
    · exact (State.allOut_iff t).1 ha l
  · obtain ⟨-, r, rfl⟩ := next_of_controllerMoves hs hm h
    rw [init_i0 hq hc]
    simp

/-- Settles O40, by the steps within a run. -/
theorem dregWrittenOnlyByByteShift : Obligations.DregWrittenOnlyByByteShift := by
  intro s t hk h
  cases step_effect_of_keepsPower hk h with
  | quiet => exact .inl rfl
  | micro r hm hb => exact .inl (controllerStep_dreg s)
  | construct d r hi hb => exact .inl rfl
  | byteShift d r hi hq => exact .inr ⟨d, hi, hq, rfl⟩
  | gate v r hq => exact .inl (by simp)

/-- Settles O41, by the steps within a run. -/
theorem delaysWrittenOnlyByConstruct : Obligations.DelaysWrittenOnlyByConstruct := by
  intro s t hk h
  cases step_effect_of_keepsPower hk h with
  | quiet => exact .inl ⟨rfl, rfl⟩
  | micro r hm hb => exact .inl ⟨controllerStep_cfgSettle s, controllerStep_cfgDelay s⟩
  | construct d r hi hb => exact .inr ⟨d, hi, hb, rfl, rfl⟩
  | byteShift d r hi hq => exact .inl ⟨rfl, rfl⟩
  | gate v r hq => exact .inl (by simp)

/-- The acceptance of a BYTESHIFT in IDLE, as a step: it starts at bit 0. -/
theorem step_byteShift_idle {s t : State} {v : Byte} (hs : Sound s) (hq : s.seq = .idle)
    (hi : issued s = some (.byteShift v)) (h : step s = .next t) : t.bitIdx = 0#3 := by
  obtain ⟨r, hr⟩ := step_issued hs hi
  rw [hr, exec_of_idle (s := s.setHost r) _ hq] at h
  cases h
  rfl

/-- A bit index that is not 7 is below 7. -/
theorem bitIdx_lt_seven_iff (i : BitVec 3) : i.toNat < 7 ↔ i ≠ 7#3 := by revert i; decide

/-- Settles O42: BITIDX is written by the acceptance of a BYTESHIFT and by S7 before bit 7. -/
theorem bitIndexCountsUp : Obligations.BitIndexCountsUp := by
  refine ⟨fun s v hq => ⟨_, exec_of_idle _ hq, rfl⟩, fun s t hk h => ⟨?_, ?_, ?_⟩⟩
  · rintro hs hq ⟨v, hi⟩
    exact step_byteShift_idle hs hq hi h
  · intro hs hm hq hc hlt
    obtain ⟨hb, r, rfl⟩ := next_of_controllerMoves hs hm h
    have hbit : (controllerStep s).bitIdx = s.bitIdx + 1#3 :=
      (controllerStep_effect hb).bitIdx_s7 hq hc ((bitIdx_lt_seven_iff _).1 hlt)
    rw [redraw_bitIdx, State.setHost_bitIdx, hbit]
    bv_omega
  · intro hne
    cases step_effect_of_keepsPower hk h with
    | micro r hm hb =>
      obtain ⟨hq, hc, h7, -⟩ := (controllerStep_effect hb).bitIdx_cases.resolve_left hne
      exact .inr ⟨hq, hc, (bitIdx_lt_seven_iff _).2 h7, hm⟩
    | byteShift d r hi hq => exact .inl ⟨hq, d, hi⟩
    | quiet | construct => exact absurd rfl hne
    | gate => exact absurd (by simp) hne

/-- The last micro-step of an operation leads to IDLE. -/
theorem controllerStep_seq_of_last {s : State} (hb : s.busy = true) (hl : AtLastMicroStep s) :
    (controllerStep s).seq = .idle :=
  ((controllerStep_effect hb).seq_cases.resolve_left fun h => h.1 hl).2

/-- A micro-step that changes SEQ is the last of its operation. -/
theorem atLastMicroStep_of_seq_ne {s : State} (hb : s.busy = true) (hne : (controllerStep s).seq ≠ s.seq) :
    AtLastMicroStep s :=
  ((controllerStep_effect hb).seq_cases.resolve_left fun h => hne h.2).1

@[simp] theorem lineWrite_busy (l : Line) (v : Level) (s : State) : (lineWrite l v s).busy = s.busy := rfl
@[simp] theorem State.setHost_busy (s : State) (r : List HostMove) : (s.setHost r).busy = s.busy := rfl
@[simp] theorem lineWrite_constructed (l : Line) (v : Level) (s : State) :
    (lineWrite l v s).constructed = s.constructed := rfl
@[simp] theorem State.setHost_constructed (s : State) (r : List HostMove) :
    (s.setHost r).constructed = s.constructed := rfl

/-- Settles O43: BUSY follows SEQ, which commands set to INIT and SHIFT and the last micro-steps set to IDLE. -/
theorem busyRisesAndFalls : Obligations.BusyRisesAndFalls := by
  refine ⟨busy_iff, fun s d hb => ⟨_, exec_construct d hb, rfl⟩, fun s d hq => ⟨_, exec_of_idle _ hq, rfl⟩,
    fun s t hk h => ⟨fun h0 h1 => ?_, fun h1 h0 => ?_, fun hs hm hl => ?_⟩⟩
  · cases step_effect_of_keepsPower hk h with
    | quiet => exact absurd (h0.symm.trans h1) (by decide)
    | micro r hm hb => exact absurd (h0.symm.trans hb) (by decide)
    | construct d r hi hb => exact ⟨_, hi, .inl ⟨d, rfl⟩⟩
    | byteShift d r hi hq => exact ⟨_, hi, .inr ⟨d, rfl⟩⟩
    | gate v r hq => exact absurd h1 (by simp [h0])
  · cases step_effect_of_keepsPower hk h with
    | quiet => exact absurd (h0.symm.trans h1) (by decide)
    | micro r hm hb =>
      exact ⟨hm, atLastMicroStep_of_seq_ne hb fun hq => absurd (h0.symm.trans ((busy_congr hq).trans h1)) (by decide)⟩
    | construct d r hi hb => exact absurd (hb.symm.trans h1) (by decide)
    | byteShift d r hi hq => cases h0
    | gate v r hq => exact absurd h0 (by simp [h1])
  · obtain ⟨hb, r, rfl⟩ := next_of_controllerMoves hs hm h
    exact (busy_false_iff _).2 (.inr (controllerStep_seq_of_last hb hl))

theorem constructed_congr {s t : State} (h : t.seq = s.seq) : t.constructed = s.constructed := by
  unfold State.constructed
  rw [h]

/-- Settles O44: CONSTRUCTED follows SEQ, which the acceptance of CONSTRUCT sets to INIT and I7 sets to IDLE. -/
theorem constructedRisesAndFalls : Obligations.ConstructedRisesAndFalls := by
  refine ⟨constructed_iff, fun s t hk h => ⟨fun h0 h1 => ?_, fun h1 h0 => ?_, fun hs hm hq hc => ?_⟩,
    fun s d hb => ⟨_, exec_construct d hb, rfl⟩⟩
  · cases step_effect_of_keepsPower hk h with
    | quiet => exact absurd (h0.symm.trans h1) (by decide)
    | micro r hm hb =>
      have hl : AtLastMicroStep s :=
        atLastMicroStep_of_seq_ne hb fun hq => absurd (h0.symm.trans ((constructed_congr hq).symm.trans h1)) (by decide)
      rcases hl with ⟨hq, hc⟩ | ⟨hq, -, -⟩
      · exact ⟨hq, hc, hm⟩
      · exact absurd (h0.symm.trans ((constructed_iff s).2 (.inr hq))) (by decide)
    | construct d r hi hb => cases h1
    | byteShift d r hi hq => exact absurd (h0.symm.trans ((constructed_iff s).2 (.inl hq))) (by decide)
    | gate v r hq => exact absurd h1 (by simp [h0])
  · cases step_effect_of_keepsPower hk h with
    | quiet => exact absurd (h0.symm.trans h1) (by decide)
    | micro r hm hb =>
      rcases (controllerStep_effect hb).seq_cases with ⟨-, hq⟩ | ⟨-, hq⟩
      · exact absurd (h0.symm.trans ((constructed_congr hq).trans h1)) (by decide)
      · exact absurd (h0.symm.trans ((constructed_iff _).2 (.inl hq))) (by decide)
    | construct d r hi hb => exact ⟨d, hi⟩
    | byteShift d r hi hq => cases h0
    | gate v r hq => exact absurd h0 (by simp [h1])
  · obtain ⟨hb, r, rfl⟩ := next_of_controllerMoves hs hm h
    exact (constructed_iff _).2 (.inl (controllerStep_seq_of_last hb (.inl ⟨hq, hc⟩)))

/-- Settles O46: the micro-steps and the gating commands that change LVL do it by one recorded write. -/
theorem levelsChangeOnlyByLineWrite : Obligations.LevelsChangeOnlyByLineWrite := by
  intro s t hk h hne
  cases step_effect_of_keepsPower hk h with
  | micro r hm hb => exact (controllerStep_effect hb).lvl_cases.resolve_left hne
  | gate v r hq => exact ⟨.oeN, v, by simp, by simp⟩
  | quiet | construct | byteShift => exact absurd rfl hne

/-! ### One bit cycle of BYTESHIFT (41_byteshift.md R90) -/

/-- While a bit cycle runs, STEP counts its micro-steps. -/
theorem shift_iterate_stepReg {s : State} (hq : s.seq = .shift) (hc : s.stepReg = 0#3) {k : Nat} (hk : k < 8) :
    (controllerStep^[k] s).seq = .shift ∧ (controllerStep^[k] s).stepReg = BitVec.ofNat 3 k := by
  induction k with
  | zero => exact ⟨hq, hc⟩
  | succ k ih =>
    obtain ⟨hq', hc'⟩ := ih (by omega)
    have h7 : (controllerStep^[k] s).stepReg ≠ 7#3 := by
      rw [hc']
      bv_omega
    obtain ⟨hseq, hstep, -⟩ := (controllerStep_effect ((busy_iff _).2 (.inr hq'))).advance h7
    rw [Function.iterate_succ_apply']
    exact ⟨hseq.trans hq', by rw [hstep, hc', BitVec.ofNat_add_ofNat]⟩

/-- `s` later in its bit cycle: at the micro-step with code `c`, with the levels `p`, the chain `d` and the events `es`
recorded since. -/
def State.midCycle (s : State) (c : BitVec 3) (p : PerLine Level) (d : List Device) (es : List Event) : State :=
  { s with stepReg := c, lvl := p, chain := d, trace := s.trace ++ es }

theorem State.midCycle_zero {s : State} (hc : s.stepReg = 0#3) : s.midCycle 0#3 s.lvl s.chain [] = s := by
  simp [State.midCycle, ← hc]

/-! The micro-steps of a bit cycle as what they do to the levels, the chain and the events. -/

section
variable {s : State} (hq : s.seq = .shift) (ha : s.allOut = true) (p : PerLine Level) (d : List Device) (es : List Event)
include hq

theorem midCycle_s2 : controllerStep (s.midCycle 1#3 p d es) = s.midCycle 2#3 p d (es ++ [.wait s.cfgDelay]) :=
  (shift_s2 (s := s.midCycle 1#3 p d es) hq rfl).trans (by simp [State.midCycle])

theorem midCycle_s4 : controllerStep (s.midCycle 3#3 p d es) = s.midCycle 4#3 p d (es ++ [.wait s.cfgDelay]) :=
  (shift_s4 (s := s.midCycle 3#3 p d es) hq rfl).trans (by simp [State.midCycle])

theorem midCycle_s6 : controllerStep (s.midCycle 6#3 p d es) = s.midCycle 7#3 p d (es ++ [.wait s.cfgDelay]) :=
  (shift_s6 (s := s.midCycle 6#3 p d es) hq rfl).trans (by simp [State.midCycle])

include ha

theorem midCycle_s1 (h1 : p.clrN = true) : controllerStep (s.midCycle 0#3 p d es) =
    s.midCycle 1#3 { p with ser := dataBit s.dreg s.bitIdx } d (es ++ [.write .ser (dataBit s.dreg s.bitIdx)]) :=
  (shift_s1 (s := s.midCycle 0#3 p d es) hq rfl ha h1).trans (by simp [State.midCycle])

theorem midCycle_s3 (h1 : p.clrN = true) (h0 : p.sck = false) : controllerStep (s.midCycle 2#3 p d es) =
    s.midCycle 3#3 { p with sck := true } (chainShift p.ser d) (es ++ [.write .sck true]) :=
  (shift_s3 (s := s.midCycle 2#3 p d es) hq rfl ha h1 h0).trans (by simp [State.midCycle])

theorem midCycle_s5a (h1 : p.clrN = true) : controllerStep (s.midCycle 4#3 p d es) =
    s.midCycle 5#3 { p with sck := false } d (es ++ [.write .sck false]) :=
  (shift_s5a (s := s.midCycle 4#3 p d es) hq rfl ha h1).trans (by simp [State.midCycle])

theorem midCycle_s5b (h1 : p.clrN = true) (h0 : p.rck = false) : controllerStep (s.midCycle 5#3 p d es) =
    s.midCycle 6#3 { p with rck := latchNow s.params.latchMode s.bitIdx }
      (if latchNow s.params.latchMode s.bitIdx then chainLatch d else d)
      (es ++ latchListing s.params.latchMode s.bitIdx.toNat) := by
  have hlist : latchListing s.params.latchMode s.bitIdx.toNat =
      if latchNow s.params.latchMode s.bitIdx then [.write .rck true] else [] := by
    simp only [latchListing, latchNow_iff, ← BitVec.toNat_inj]
    rfl
  rw [hlist]
  cases hl : latchNow s.params.latchMode s.bitIdx with
  | true =>
    exact (shift_s5b_latch (s := s.midCycle 5#3 p d es) hq rfl ha h1 h0 hl).trans (by simp [State.midCycle])
  | false =>
    exact (shift_s5b_pass (s := s.midCycle 5#3 p d es) hq rfl hl).trans (by simp [State.midCycle, ← h0])

theorem midCycle_s7 (h1 : p.clrN = true) : controllerStep (s.midCycle 7#3 p d es) =
    nextBit (s.midCycle 7#3 { p with rck := false } d (es ++ [.write .rck false])) := by
  by_cases hb : s.bitIdx = 7#3
  · rw [nextBit_last (s := s.midCycle ..) hb]
    exact (shift_s7_last (s := s.midCycle 7#3 p d es) hq rfl ha h1 hb).trans
      (by simp [State.midCycle, State.setSeq])
  · rw [nextBit_more (s := s.midCycle ..) hb]
    exact (shift_s7_next (s := s.midCycle 7#3 p d es) hq rfl ha h1 hb).trans
      (by simp [State.midCycle, State.setBitIdx, State.setStep])

end

/-- A whole bit cycle, up to the advance of the sequencer: the chain has shifted once and latched where it should, SCK
and RCK are low again, and SER carries the bit. -/
theorem controllerStep_iterate_cycle {s : State} (hq : s.seq = .shift) (hc : s.stepReg = 0#3) (h : ShiftInv 0 s) :
    controllerStep^[8] s = nextBit (s.midCycle 7#3 (s.lvl.set .ser (dataBit s.dreg s.bitIdx))
      (if latchNow s.params.latchMode s.bitIdx then chainLatch (chainShift (dataBit s.dreg s.bitIdx) s.chain)
        else chainShift (dataBit s.dreg s.bitIdx) s.chain)
      (bitListing s.params.latchMode s.cfgDelay s.dreg s.bitIdx.toNat)) := by
  obtain ⟨ha, h1, hs, hr, -⟩ := h
  replace hs : s.lvl.sck = false := hs
  replace hr : s.lvl.rck = false := by simpa using hr
  calc controllerStep^[8] s
    _ = controllerStep^[8] (s.midCycle 0#3 s.lvl s.chain []) := by rw [State.midCycle_zero hc]
    _ = _ := by
      simp only [Function.iterate_succ_apply, Function.iterate_zero_apply, midCycle_s1 hq ha, midCycle_s2 hq,
        midCycle_s3 hq ha, midCycle_s4 hq, midCycle_s5a hq ha, midCycle_s5b hq ha, midCycle_s6 hq, midCycle_s7 hq ha,
        h1, hs, hr]
      simp [bitListing, PerLine.set, dataBit, h1, hs, hr]

/-- Settles O21: the eight micro-steps of the bit cycle, the last of which advances to the next bit or to IDLE. -/
theorem bitCycle : Obligations.BitCycle := by
  intro s hs hp hq hc h
  have hbusy (k : Nat) (hk : k < 8) : (controllerStep^[k] s).busy = true :=
    (busy_iff _).2 (.inr (shift_iterate_stepReg hq hc hk).1)
  refine ⟨_, run_micro hs hp h.1 8 hbusy, ?_⟩
  rw [controllerStep_iterate_cycle hq hc h]
  simp only [latchNow_iff]
  by_cases hb : s.bitIdx = 7#3
  · rw [nextBit_last (s := s.midCycle ..) hb]
    exact ⟨rfl, rfl, rfl, fun _ => ⟨rfl, hb⟩, fun hn => absurd hb hn, rfl⟩
  · rw [nextBit_more (s := s.midCycle ..) hb]
    exact ⟨rfl, rfl, rfl, fun hn => absurd hn hb, fun _ => ⟨hq, rfl, rfl⟩, rfl⟩

end Sys2Proof.Machine
end

section
/-! SUPPORT. Proofs of the statements on the line space and the chain (20_memory.md): the reactions of the chain, the two
line primitives and what they record, the inputs and wires that no step reads, and the bytes of whole BYTESHIFTs. -/

namespace Sys2Proof.Machine

/-! ### The reactions of the chain (20_memory.md R38 to R42) -/

theorem rising_iff {old new : PerLine Level} {l : Line} :
    rising old new l = true ↔ old.get l = false ∧ new.get l = true := by simp [rising]

/-- No line rises from a vector to itself. -/
theorem not_rising_self (p : PerLine Level) (l : Line) : rising p p l = false := by simp [rising]

/-- CLR_n low and a rising RCK: the zeros are latched (20_memory.md R39, R41). -/
theorem chainReact_clear_latch {old new : PerLine Level} (h : new.clrN = false) (h0 : old.rck = false)
    (h1 : new.rck = true) (c : List Device) : chainReact old new .rck c = chainLatch (chainClear c) := by
  unfold chainReact clearOrShift
  rw [if_pos ⟨rfl, rising_iff.2 ⟨h0, h1⟩⟩, if_pos h]

/-- With no change of level the chain does not react, if the shift stages are clear wherever CLR_n is low. -/
theorem chainReact_self {p : PerLine Level} {c : List Device} (hz : p.clrN = false → AllClear c) (l : Line) :
    chainReact p p l c = c := by
  cases hc : p.clrN with
  | true => exact chainReact_none hc l c (by simp [not_rising_self]) (by simp [not_rising_self])
  | false => rw [chainReact_clear hc p l c (by simp [not_rising_self]), chainClear_of_clear (hz hc)]

/-- Settles O50: CLR_n high and no rising clock is the case in which the chain stays. -/
theorem onlyThreeThingsReact : Obligations.OnlyThreeThingsReact := by
  intro old new l c hne
  by_contra hno
  obtain ⟨hc, hs, hr⟩ : new.clrN = true ∧ _ ∧ _ := by simpa only [not_or, Bool.not_eq_false] using hno
  exact hne (chainReact_none hc l c (by rwa [rising_iff]) (by rwa [rising_iff]))

/-- Settles O51: the chain is cleared, and a rising RCK copies what was cleared. -/
theorem clearIsALevel : Obligations.ClearIsALevel := by
  intro old new l c hc
  by_cases hr : l = .rck ∧ old.rck = false ∧ new.rck = true
  · obtain ⟨rfl, h0, h1⟩ := id hr
    rw [chainReact_clear_latch hc h0 h1]
    have hz : ∀ d ∈ chainLatch (chainClear c), d = ⟨0x00#8, 0x00#8⟩ := by simp [chainLatch, chainClear]
    exact ⟨fun d hd => by rw [hz d hd], fun hn => absurd hr hn, fun _ d hd => by rw [hz d hd]⟩
  · rw [chainReact_clear hc old l c (by rwa [rising_iff])]
    exact ⟨fun d hd => chainClear_sh hd, fun _ => chainClear_lt c, fun hr' => absurd hr' hr⟩

/-- Settles O53: the latch takes the shift stages as the clear leaves them. -/
theorem latchCopiesShiftStages : Obligations.LatchCopiesShiftStages := by
  intro old new c h0 h1
  refine ⟨fun hc => chainReact_latch hc h0 h1 c, fun hc => ?_⟩
  rw [chainReact_clear_latch hc h0 h1, chainLatch, chainClear, List.map_map]
  rfl

/-- What enters each device in a shift is `carry`, and after it the last cells before the edge (20_memory.md R40). -/
theorem chainShift_eq_zipWith (carry : Level) (c : List Device) :
    chainShift carry c =
      List.zipWith (fun b d => { d with sh := shiftCell b d.sh }) (carry :: c.map fun d => d.sh.getLsbD 0) c := by
  induction c generalizing carry with
  | nil => rfl
  | cons d ds ih => rw [chainShift, ih, List.map_cons, List.zipWith_cons_cons]

/-- Settles O52: device k of the shifted chain has taken in what stands at place k of SER and the last cells. -/
theorem shiftMovesEveryCell : Obligations.ShiftMovesEveryCell := by
  intro old new ds hc h0 h1
  rw [chainReact_shift hc h0 h1]
  refine ⟨chainShift_length .., fun k d hd => ?_⟩
  have moved (b : Level) : ∀ i, i < 7 → (shiftCell b d.sh).getLsbD i = d.sh.getLsbD (i + 1) := fun i hi => by
    rw [getLsbD_shiftCell, if_neg (by omega)]
  have entered (b : Level) : (shiftCell b d.sh).getLsbD 7 = b := by rw [getLsbD_shiftCell, if_pos rfl]
  rw [chainShift_eq_zipWith]
  cases k with
  | zero => exact ⟨{ d with sh := shiftCell new.ser d.sh }, by simp [List.getElem?_zipWith, hd], rfl, moved _,
      fun _ => entered _, by simp⟩
  | succ k =>
    obtain ⟨p, hp⟩ : ∃ p, ds[k]? = some p :=
      ⟨_, List.getElem?_eq_getElem (Nat.lt_of_succ_lt (List.getElem?_eq_some_iff.1 hd).1)⟩
    refine ⟨{ d with sh := shiftCell (p.sh.getLsbD 0) d.sh }, by simp [List.getElem?_zipWith, hd, hp], rfl, moved _,
      by simp, fun q _ hq => ?_⟩
    obtain rfl : p = q := Option.some.inj (hp.symm.trans hq)
    exact entered _

/-- Settles O54, by the cases of OE_n. -/
theorem outputsAreGatedLatches : Obligations.OutputsAreGatedLatches := by
  intro s
  refine ⟨?_, fun ho hl => by simp [State.outputs, ho, hl], fun ho hl => by simp [State.outputs, ho, hl]⟩
  unfold State.outputs
  split <;> simp

/-! ### The line primitives (20_memory.md R35, R36, R48) -/

/-- Settles O48, by the drive mode of the line. -/
theorem lineConfigEffect : Obligations.LineConfigEffect := fun s _ =>
  ⟨lineConfig_out, fun h => ⟨freeChain s.free s.chain, _, freeChain_length .., lineConfig_undriven h⟩⟩

/-- Rewriting the level of a line is recorded and does nothing else. -/
theorem lineWrite_rewrite {s : State} {l : Line} {v : Level} (ha : s.allOut = true) (hv : s.lvl.get l = v)
    (hz : s.lvl.clrN = false → AllClear s.chain) :
    lineWrite l v s = { s with trace := s.trace ++ [.write l v] } := by
  rw [lineWrite_driven ha, ← hv, PerLine.set_get, chainReact_self hz]

/-- Settles O49. -/
theorem lineWriteEffect : Obligations.LineWriteEffect := fun _ l v ha =>
  ⟨lineWrite_driven ha l v, lineWrite_rewrite ha⟩

/-- A line write at rest, repeated, adds to the trace alone. -/
theorem lineWrite_twice {s : State} (hr : RestInv s) (v : Level) :
    lineWrite .oeN v (lineWrite .oeN v s) =
      { lineWrite .oeN v s with trace := (lineWrite .oeN v s).trace ++ [.write .oeN v] } := by
  obtain ⟨ha, -, -, h1⟩ := lineWrite_oeN_restInv v hr
  exact lineWrite_rewrite ha (PerLine.get_set_self s.lvl .oeN v) fun h0 => absurd (h1.symm.trans h0) (by decide)

/-- In IDLE, of two commands that write the same level to OE_n the second adds to the trace alone. -/
theorem gating_twice {s t u : State} {i j : Instr} {v : Level} (hq : s.seq = .idle) (hr : RestInv s)
    (hi : idleEffect i = lineWrite .oeN v) (hj : idleEffect j = lineWrite .oeN v) (ht : exec i s = .next t)
    (hu : exec j t = .next u) : u = { t with trace := u.trace } := by
  rw [exec_of_idle i hq, hi] at ht
  cases ht
  rw [exec_of_idle (s := lineWrite .oeN v s) j hq, hj, lineWrite_twice hr] at hu
  cases hu
  rfl

/-- Settles O33: ENABLE_OUTPUT writes OE_n low, DISABLE_OUTPUT high. -/
theorem gatingIsIdempotent : Obligations.GatingIsIdempotent := fun _ _ _ _ _ hq hr =>
  ⟨gating_twice hq hr rfl rfl, gating_twice hq hr rfl rfl⟩

/-! ### TRACE and the latch stages within a run (20_memory.md R46, R47) -/

/-- A micro-step appends at most one event, and I0 at most one for each line (30_encoding.md R69). -/
theorem MicroEffect.trace_cases {s u : State} (h : MicroEffect s u) :
    ∃ es, u.trace = s.trace ++ es ∧ es.length ≤ 5 ∧ (¬ (s.seq = .init ∧ s.stepReg = 0#3) → es.length ≤ 1) := by
  have atMostOne {es : List Event} (ht : u.trace = s.trace ++ es) (hl : es.length ≤ 1) :
      ∃ es, u.trace = s.trace ++ es ∧ es.length ≤ 5 ∧ (¬ (s.seq = .init ∧ s.stepReg = 0#3) → es.length ≤ 1) :=
    ⟨es, ht, by omega, fun _ => hl⟩
  cases h with
  | config hq hc =>
    have hl : (configListing s.dir).length ≤ 5 := by
      rw [configListing, List.length_map]
      exact List.length_filter_le _ Line.all
    exact ⟨configListing s.dir, (State.setStep_trace ..).trans (configAll_trace s), hl, fun h0 => absurd ⟨hq, hc⟩ h0⟩
  | wait n hc => exact atMostOne (es := [.wait n]) rfl (by simp)
  | pass hc => exact atMostOne (es := []) (by simp) (by simp)
  | write l v hc => exact atMostOne (es := [.write l v]) rfl (by simp)
  | constructEnds => exact atMostOne (es := [.write .clrN true]) rfl (by simp)
  | nextBit | byteShiftEnds => exact atMostOne (es := [.write .rck false]) rfl (by simp)

/-- Settles O45: within a run only micro-steps and the gating commands record anything. -/
theorem traceOnlyGrows : Obligations.TraceOnlyGrows := by
  intro s t hk h
  cases step_effect_of_keepsPower hk h with
  | micro r hm hb => exact (controllerStep_effect hb).trace_cases
  | gate v r hq => exact ⟨[.write .oeN v], rfl, by simp, by simp⟩
  | quiet | construct | byteShift => exact ⟨[], by simp [beginConstruct, beginByteShift], by simp, by simp⟩

/-- S5b leaves the latch stages, or it is a latching bit cycle and records the rise of RCK (41_byteshift.md R91). -/
theorem shift_s5b_latchStages {s : State} (hq : s.seq = .shift) (h : ShiftInv s.stepReg.toNat s)
    (e : s.stepReg = 5#3) : latchStages (controllerStep s) = latchStages s ∨
      ((s.params.latchMode = .perBit ∨ s.bitIdx = 7#3) ∧ (controllerStep s).trace = s.trace ++ [.write .rck true] ∧
        latchStages (controllerStep s) = shiftStages s) := by
  obtain ⟨ha, h1, -, hr, -⟩ := h
  cases hl : latchNow s.params.latchMode s.bitIdx with
  | true =>
    rw [shift_s5b_latch hq e ha h1 (by rw [hr, e, hl]; rfl) hl]
    exact .inr ⟨(latchNow_iff _ _).1 hl, rfl, chainLatch_lt s.chain⟩
  | false =>
    rw [shift_s5b_pass hq e hl]
    exact .inl rfl

/-- On lines that are outputs already CONSTRUCT leaves the latch stages, I0 included (40_construct.md R81 (e)). -/
theorem init_latchStages_of_allOut {s : State} (hq : s.seq = .init) (h : InitInv s.stepReg.toNat s)
    (ha : s.allOut = true) : latchStages (controllerStep s) = latchStages s := by
  by_cases h0 : s.stepReg = 0#3
  · rw [init_i0 hq h0, configAll_of_allOut ha]
    rfl
  · exact init_latchStages hq h h0

/-- The output gate does not touch the latch stages, whatever the wires hold (20_memory.md R41). -/
theorem lineWrite_oeN_latchStages (v : Level) (s : State) : latchStages (lineWrite .oeN v s) = latchStages s := by
  rw [latchStages, lineWrite_chain, chainReact_lt (by simp)]
  rfl

/-- Settles O47: of the steps within a run, on lines that are outputs, only S5b writes the latch stages. -/
theorem latchesChangeOnlyOnRckRise : Obligations.LatchesChangeOnlyOnRckRise := by
  intro s t hinv ha hk h
  obtain ⟨hinit, -, hshift⟩ := hinv
  cases step_effect_of_keepsPower hk h with
  | micro r hm hb =>
    rcases (busy_iff s).1 hb with hq | hq
    · exact .inl (init_latchStages_of_allOut hq (hinit hq) ha)
    · by_cases h5 : s.stepReg = 5#3
      · exact (shift_s5b_latchStages hq (hshift hq) h5).imp_right fun hl => ⟨hq, h5, hl⟩
      · exact .inl (shift_latchStages hq (hshift hq) h5)
  | gate v r hq => exact .inl (lineWrite_oeN_latchStages v s)
  | quiet | construct | byteShift => exact .inl rfl

end Sys2Proof.Machine
end

section
/-! SUPPORT. Proofs of the statements on what no step reads (20_memory.md R32, R33): one notion of a relation that every
step respects, `Unread`, of the configuration inputs and of the wires. -/

namespace Sys2Proof.Machine

/-! ### What no step reads -/

/-- `u` with the inputs, the levels and the chain of `s`. -/
def State.withHidden (u s : State) : State :=
  { u with lvl := s.lvl, chain := s.chain, cfgSettleIn := s.cfgSettleIn, cfgDelayIn := s.cfgDelayIn }

/-- `r` relates states that differ in the inputs, the levels and the chain at most, whatever the rest of the two states
is, and the operations that touch these fields respect it. -/
structure Unread (r : State → State → Prop) : Prop where
  same {s t : State} : r s t → t = s.withHidden t
  rest {s t : State} (u : State) : r s t → r (u.withHidden s) (u.withHidden t)
  setCfg {s t : State} (a b : Ticks) : r s t →
    r { s with cfgSettleIn := a, cfgDelayIn := b } { t with cfgSettleIn := a, cfgDelayIn := b }
  powerOn {s t : State} : r s t → r (powerOn s) (powerOn t)
  lineConfig {s t : State} (l : Line) : r s t → r (lineConfig l s) (lineConfig l t)
  lineWrite {s t : State} (l : Line) (v : Level) : r s t → r (lineWrite l v s) (lineWrite l v t)

theorem agree_mono {r q : State → State → Prop} (hq : ∀ s t, r s t → q s t)
    {a b : Host.Outcome State Fault Refusal} (h : agree r a b) : agree q a b := by
  cases a <;> cases b
  case next.next s t => exact hq s t h
  all_goals exact h

section
variable {r : State → State → Prop} (hr : Unread r) {s t : State} (h : r s t)
include hr h

theorem Unread.seq_eq : t.seq = s.seq := (congrArg State.seq (hr.same h) :)
theorem Unread.stepReg_eq : t.stepReg = s.stepReg := (congrArg State.stepReg (hr.same h) :)
theorem Unread.bitIdx_eq : t.bitIdx = s.bitIdx := (congrArg State.bitIdx (hr.same h) :)
theorem Unread.dreg_eq : t.dreg = s.dreg := (congrArg State.dreg (hr.same h) :)
theorem Unread.fault_eq : t.fault = s.fault := (congrArg State.fault (hr.same h) :)
theorem Unread.params_eq : t.params = s.params := (congrArg State.params (hr.same h) :)
theorem Unread.host_eq : t.host = s.host := (congrArg State.host (hr.same h) :)
theorem Unread.busy_eq : t.busy = s.busy := busy_congr (hr.seq_eq h)

/-- An update that neither reads nor writes what `r` lets differ. -/
theorem Unread.map (f : State → State) (hf : ∀ u x : State, f (u.withHidden x) = (f u).withHidden x) :
    r (f s) (f t) := by
  have hs : f s = (f s).withHidden s := hf s s
  have ht : f t = (f s).withHidden t := (congrArg f (hr.same h)).trans (hf s t)
  rw [hs, ht]
  exact hr.rest (f s) h

theorem Unread.setHost (rest : List HostMove) : r (s.setHost rest) (t.setHost rest) :=
  hr.map h (·.setHost rest) fun _ _ => rfl

theorem Unread.setStep (c : BitVec 3) : r (s.setStep c) (t.setStep c) := hr.map h (·.setStep c) fun _ _ => rfl

theorem Unread.redraw : r (redraw s) (redraw t) := hr.map h Machine.redraw fun _ _ => rfl

theorem Unread.raise (f : Fault) : agree r (raise f s) (raise f t) :=
  hr.map h (fun u => { u with fault := some (u.fault.getD f) }) fun _ _ => rfl

theorem Unread.nextBit : r (nextBit s) (nextBit t) := hr.map h Machine.nextBit fun u x => by
  by_cases hb : u.bitIdx = 7#3
  · rw [nextBit_last hb, nextBit_last (s := u.withHidden x) hb]
    rfl
  · rw [nextBit_more hb, nextBit_more (s := u.withHidden x) hb]
    rfl

theorem Unread.configAll : r (configAll s) (configAll t) := by
  simp only [Machine.configAll, Line.all, List.foldl_cons, List.foldl_nil]
  exact hr.lineConfig _ (hr.lineConfig _ (hr.lineConfig _ (hr.lineConfig _ (hr.lineConfig _ h))))

theorem Unread.initMicroStep (m : InitStep) : r (initMicroStep m s) (initMicroStep m t) := by
  cases m with
  | i0 => exact hr.setStep (hr.configAll h) _
  | i6 => exact hr.map h (Machine.initMicroStep .i6) fun _ _ => rfl
  | i7 => exact hr.map (hr.lineWrite .clrN true h) (·.setSeq .idle) fun _ _ => rfl
  | i1 | i2 | i3 | i4 | i5 => exact hr.setStep (hr.lineWrite _ _ h) _

theorem Unread.shiftMicroStep (m : ShiftStep) : r (shiftMicroStep m s) (shiftMicroStep m t) := by
  cases m with
  | s1 =>
    simp only [Machine.shiftMicroStep, hr.dreg_eq h, hr.bitIdx_eq h]
    exact hr.setStep (hr.lineWrite _ _ h) _
  | s3 | s5a => exact hr.setStep (hr.lineWrite _ _ h) _
  | s2 => exact hr.map h (Machine.shiftMicroStep .s2) fun _ _ => rfl
  | s4 => exact hr.map h (Machine.shiftMicroStep .s4) fun _ _ => rfl
  | s6 => exact hr.map h (Machine.shiftMicroStep .s6) fun _ _ => rfl
  | s5b =>
    simp only [Machine.shiftMicroStep, hr.params_eq h, hr.bitIdx_eq h]
    split
    · exact hr.setStep (hr.lineWrite _ _ h) _
    · exact hr.setStep h _
  | s7 => exact hr.nextBit (hr.lineWrite _ _ h)

theorem Unread.controllerStep : r (controllerStep s) (controllerStep t) := by
  have hq := hr.seq_eq h
  have hc := hr.stepReg_eq h
  cases hs : s.seq with
  | init =>
    rw [controllerStep_init hs, controllerStep_init (hq.trans hs), hc]
    exact hr.initMicroStep h _
  | shift =>
    rw [controllerStep_shift hs, controllerStep_shift (hq.trans hs), hc]
    exact hr.shiftMicroStep h _
  | unconstructed | idle =>
    have hb : s.busy = false := by simp [State.busy, hs]
    rwa [controllerStep_idle hb, controllerStep_idle ((hr.busy_eq h).trans hb)]

/-- A command respects `r` if the effect it takes when accepted does. -/
theorem Unread.exec {i : Instr} (he : s.busy = false → r (idleEffect i s) (idleEffect i t)) :
    agree r (exec i s) (exec i t) := by
  have hq := hr.seq_eq h
  have hbusy := hr.busy_eq h
  cases hb : s.busy with
  | true =>
    rw [exec_of_busy i hb, exec_of_busy i (hbusy.trans hb)]
    exact hr.raise h _
  | false =>
    rcases (busy_false_iff s).1 hb with hs | hs
    · by_cases hi : ∃ d, i = .construct d
      · obtain ⟨d, rfl⟩ := hi
        rw [exec_construct d hb, exec_construct d (hbusy.trans hb)]
        exact he hb
      · have hi' : ∀ d, i ≠ .construct d := not_exists.1 hi
        rw [exec_of_unconstructed hs hi', exec_of_unconstructed (hq.trans hs) hi']
        exact hr.raise h _
    · rw [exec_of_idle i hs, exec_of_idle i (hq.trans hs)]
      exact he hb

variable (he : ∀ i rest, issued s = some i → s.busy = false →
  r (idleEffect i (s.setHost rest)) (idleEffect i (t.setHost rest)))
include he

theorem Unread.hostOrController : agree r (hostOrController s) (hostOrController t) := by
  unfold Machine.hostOrController
  rw [hr.host_eq h, hr.busy_eq h]
  split <;> rename_i hh
  · exact hr.controllerStep h
  · split <;> rename_i hb
    · exact hr.controllerStep h
    · exact hr.exec (hr.setHost h _) (he _ _ (by simp [issued, hh, hb]))
  · exact hr.exec (hr.setHost h _) (he _ _ (by simp [issued, hh]))
  · exact hr.controllerStep (hr.setHost h _)
  · rename_i settle delay rest
    exact hr.setCfg settle delay (hr.setHost h rest)
  · exact hr.raise (hr.setHost h _) _
  · exact hr.raise (hr.setHost h _) _
  · exact hr.powerOn (hr.setHost h _)

theorem Unread.runStep : agree r (runStep s) (runStep t) := by
  unfold Machine.runStep
  rw [hr.fault_eq h, hr.params_eq h]
  split
  · rfl
  · split
    · exact hr.hostOrController h he
    · exact hr.raise h _

/-- A step respects `r` if the effect of a command that it accepts does. -/
theorem Unread.step : agree r (step s) (step t) := by
  have hm : agree r (move s) (move t) := by
    unfold move
    rw [hr.host_eq h]
    split
    · exact hr.powerOn (hr.setHost h _)
    · exact hr.runStep h he
  unfold Machine.step turn
  cases hs : move s <;> cases ht : move t <;> rw [hs, ht] at hm
  case next.next => exact hr.redraw hm
  all_goals exact hm

end

/-! ### The configuration inputs (20_memory.md R32) -/

theorem sameButInputs_iff {s t : State} :
    sameButInputs s t ↔ ∃ a b, t = { s with cfgSettleIn := a, cfgDelayIn := b } :=
  ⟨fun h => ⟨_, _, h⟩, by rintro ⟨a, b, rfl⟩; rfl⟩

theorem unread_inputs : Unread sameButInputs where
  same h := by obtain ⟨a, b, rfl⟩ := sameButInputs_iff.1 h; rfl
  rest u h := by obtain ⟨a, b, rfl⟩ := sameButInputs_iff.1 h; rfl
  setCfg _ _ h := by obtain ⟨a, b, rfl⟩ := sameButInputs_iff.1 h; rfl
  powerOn h := by obtain ⟨a, b, rfl⟩ := sameButInputs_iff.1 h; rfl
  lineConfig l h := by
    obtain ⟨a, b, rfl⟩ := sameButInputs_iff.1 h
    unfold lineConfig
    split <;> rfl
  lineWrite l v h := by obtain ⟨a, b, rfl⟩ := sameButInputs_iff.1 h; rfl

/-- Every command but CONSTRUCT ignores the inputs. -/
theorem idleEffect_inputs {i : Instr} (hi : ∀ d, i ≠ .construct d) {s t : State} (h : sameButInputs s t) :
    sameButInputs (idleEffect i s) (idleEffect i t) := by
  cases i with
  | construct d => exact absurd rfl (hi d)
  | byteShift d => exact unread_inputs.map h (beginByteShift d) fun _ _ => rfl
  | enableOutput d | disableOutput d => exact unread_inputs.lineWrite _ _ h

/-- Settles O10: the acceptance of CONSTRUCT samples the inputs, and nothing else a step does reads them. -/
theorem inputsSampledOnlyByConstruct : Obligations.InputsSampledOnlyByConstruct := by
  refine ⟨fun s d hb => ⟨_, exec_construct d hb, rfl, rfl⟩, fun s a b hn => ?_⟩
  have h : sameButInputs s { s with cfgSettleIn := a, cfgDelayIn := b } := sameButInputs_iff.2 ⟨a, b, rfl⟩
  refine unread_inputs.step h fun i rest hi hb => ?_
  exact idleEffect_inputs (fun d hd => hn ⟨hb, d, hd ▸ hi⟩) (unread_inputs.setHost h rest)

/-! ### The wires (20_memory.md R33) -/

/-- Equal but for the levels and the contents of the chain, of the same number of devices. -/
def SameButContents (s t : State) : Prop := sameButWires s t ∧ t.chain.length = s.chain.length

theorem sameButContents_iff {s t : State} :
    SameButContents s t ↔ ∃ p c, t = { s with lvl := p, chain := c } ∧ c.length = s.chain.length :=
  ⟨fun h => ⟨_, _, h.1, h.2⟩, by rintro ⟨p, c, rfl, hc⟩; exact ⟨rfl, hc⟩⟩

theorem unread_wires : Unread SameButContents where
  same h := by obtain ⟨p, c, rfl, hc⟩ := sameButContents_iff.1 h; rfl
  rest u h := by obtain ⟨p, c, rfl, hc⟩ := sameButContents_iff.1 h; exact ⟨rfl, hc⟩
  setCfg _ _ h := by obtain ⟨p, c, rfl, hc⟩ := sameButContents_iff.1 h; exact ⟨rfl, hc⟩
  powerOn h := by
    obtain ⟨p, c, rfl, hc⟩ := sameButContents_iff.1 h
    exact ⟨by simp [sameButWires, powerOn, hc], by simp [powerOn, hc]⟩
  lineConfig {s _} l h := by
    obtain ⟨p, c, rfl, hc⟩ := sameButContents_iff.1 h
    cases hl : s.dir.get l with
    | out => rwa [lineConfig_out hl, lineConfig_out (s := { s with lvl := p, chain := c }) hl]
    | undriven =>
      rw [lineConfig_undriven hl, lineConfig_undriven (s := { s with lvl := p, chain := c }) hl]
      exact ⟨by simp [sameButWires, hc], by simp [hc]⟩
  lineWrite l v h := by
    obtain ⟨p, c, rfl, hc⟩ := sameButContents_iff.1 h
    exact ⟨rfl, by simp [hc]⟩

theorem idleEffect_wires (i : Instr) {s t : State} (h : SameButContents s t) :
    SameButContents (idleEffect i s) (idleEffect i t) := by
  cases i with
  | construct d =>
    obtain ⟨p, c, rfl, hc⟩ := sameButContents_iff.1 h
    exact ⟨rfl, hc⟩
  | byteShift d => exact unread_wires.map h (beginByteShift d) fun _ _ => rfl
  | enableOutput d | disableOutput d => exact unread_wires.lineWrite _ _ h

/-- Settles O11: no effect of a command and no micro-step reads the wires. -/
theorem linesAndChainAreWriteOnly : Obligations.LinesAndChainAreWriteOnly := by
  intro s p c hc
  have h : SameButContents s { s with lvl := p, chain := c } := ⟨rfl, hc⟩
  exact agree_mono (fun _ _ h => h.1)
    (unread_wires.step h fun i rest _ _ => idleEffect_wires i (unread_wires.setHost h rest))

end Sys2Proof.Machine
end

section
/-! SUPPORT. Proofs of the statements on the bytes that travel down the chain (20_memory.md R43, R44) and on what an
observer sees of one (R46): the state after n bit cycles, the whole run of a BYTESHIFT, and the changes of level. -/

namespace Sys2Proof.Machine

/-! ### The bit cycles of a BYTESHIFT (41_byteshift.md R90) -/

/-- The level of SER after the first `n` bits of `v`, from level `start`. -/
def lastSent (start : Level) (v : Byte) : Nat → Level
  | 0 => start
  | n + 1 => v.getLsbD n

/-- The chain after the first `n` bit cycles of `v`: each shifts, and latches where the mode says so. -/
def cycleChain (m : LatchMode) (v : Byte) : Nat → List Device → List Device
  | 0, c => c
  | n + 1, c =>
    let d := chainShift (v.getLsbD n) (cycleChain m v n c)
    if latchNow m (BitVec.ofNat 3 n) then chainLatch d else d

/-- The shift stages take in the bits sent, whatever is latched meanwhile. -/
theorem cycleChain_sh (m : LatchMode) (v : Byte) (n : Nat) (c : List Device) :
    (cycleChain m v n c).map Device.sh = (shiftIn ((List.range n).map v.getLsbD) c).map Device.sh := by
  induction n with
  | zero => rfl
  | succ n ih =>
    rw [List.range_succ, List.map_append, List.map_singleton, shiftIn_concat, ← chainShift_sh_congr _ ih, cycleChain]
    split
    · exact chainLatch_sh _
    · rfl

/-- What is latched is decided by the shift stages alone. -/
theorem chainLatch_congr {c e : List Device} (h : c.map Device.sh = e.map Device.sh) : chainLatch c = chainLatch e := by
  have key (c : List Device) : chainLatch c = (c.map Device.sh).map fun b => ⟨b, b⟩ := by simp [chainLatch]
  rw [key c, key e, h]

/-- In both latch modes the whole byte has passed and is latched (41_byteshift.md R91, R92). -/
theorem cycleChain_eight (m : LatchMode) (v : Byte) (c : List Device) :
    cycleChain m v 8 c = chainLatch (passByte v c) := by
  have hsh : (chainShift (v.getLsbD 7) (cycleChain m v 7 c)).map Device.sh = (passByte v c).map Device.sh := by
    rw [chainShift_sh_congr _ (cycleChain_sh m v 7 c), ← shiftIn_concat, ← shiftIn_wireBits]
    rfl
  have hl : latchNow m (BitVec.ofNat 3 7) = true := (latchNow_iff _ _).2 (.inr rfl)
  rw [cycleChain, if_pos hl, chainLatch_congr hsh]

/-- `s`, at S1 of bit 0, after `n` bit cycles, at S1 of bit `n`. -/
def State.afterCycles (s : State) (n : Nat) : State :=
  { s with
    stepReg := 0#3
    bitIdx := BitVec.ofNat 3 n
    lvl := s.lvl.set .ser (lastSent s.lvl.ser s.dreg n)
    chain := cycleChain s.params.latchMode s.dreg n s.chain
    trace := s.trace ++ (List.range n).flatMap (bitListing s.params.latchMode s.cfgDelay s.dreg) }

theorem State.afterCycles_zero {s : State} (hc : s.stepReg = 0#3) (hi : s.bitIdx = 0#3) : s.afterCycles 0 = s := by
  have hl : s.lvl.set .ser (lastSent s.lvl.ser s.dreg 0) = s.lvl := PerLine.set_get ..
  have ht : s.trace ++ (List.range 0).flatMap (bitListing s.params.latchMode s.cfgDelay s.dreg) = s.trace := by simp
  rw [State.afterCycles, hl, ht]
  cases s
  cases hc
  cases hi
  rfl

/-- `s` at the end of the BYTESHIFT at whose first bit cycle it is (41_byteshift.md R92). -/
def State.byteSent (s : State) : State :=
  { s with
    seq := .idle
    stepReg := 7#3
    bitIdx := 7#3
    lvl := s.lvl.set .ser (s.dreg.getLsbD 7)
    chain := chainLatch (passByte s.dreg s.chain)
    trace := s.trace ++ byteListing s.params.latchMode s.cfgDelay s.dreg }

section
variable {s : State} (hq : s.seq = .shift) (hc : s.stepReg = 0#3) (h : ShiftInv 0 s)

include h in
theorem shiftInv_afterCycles (n : Nat) : ShiftInv 0 (s.afterCycles n) := by
  obtain ⟨ha, h1, hs, hr, -⟩ := h
  exact ⟨ha, h1, hs, by simpa [State.afterCycles, PerLine.set] using hr, by simp⟩

theorem afterCycles_bitIdx_toNat {n : Nat} (hn : n ≤ 7) : (s.afterCycles n).bitIdx.toNat = n := by
  rw [State.afterCycles, BitVec.toNat_ofNat]
  omega

theorem dataBit_afterCycles {n : Nat} (hn : n ≤ 7) :
    dataBit (s.afterCycles n).dreg (s.afterCycles n).bitIdx = s.dreg.getLsbD n := by
  rw [dataBit, afterCycles_bitIdx_toNat hn]
  rfl

include hq h

/-- One more bit cycle, up to the advance of the sequencer. -/
theorem controllerStep_iterate_afterCycles {n : Nat} (hn : n ≤ 7) :
    controllerStep^[8] (s.afterCycles n) = nextBit { s.afterCycles (n + 1) with
      stepReg := 7#3
      bitIdx := BitVec.ofNat 3 n } := by
  rw [controllerStep_iterate_cycle (s := s.afterCycles n) hq rfl (shiftInv_afterCycles h n), dataBit_afterCycles hn,
    afterCycles_bitIdx_toNat hn]
  simp only [State.midCycle, State.afterCycles, List.range_succ, List.flatMap_append, List.flatMap_singleton,
    List.append_assoc, PerLine.set_set]
  rfl

include hc

theorem controllerStep_iterate_cycles (hi : s.bitIdx = 0#3) {n : Nat} (hn : n ≤ 7) :
    controllerStep^[8 * n] s = s.afterCycles n := by
  induction n with
  | zero => exact (State.afterCycles_zero hc hi).symm
  | succ n ih =>
    have hb : BitVec.ofNat 3 n ≠ 7#3 := by bv_omega
    rw [Nat.mul_succ, Nat.add_comm, Function.iterate_add_apply, ih (by omega),
      controllerStep_iterate_afterCycles hq h (by omega), nextBit_more hb]
    simp [State.afterCycles, State.setBitIdx, State.setStep, BitVec.ofNat_add_ofNat]

/-- All 64 micro-steps. -/
theorem controllerStep_iterate_byte (hi : s.bitIdx = 0#3) : controllerStep^[64] s = s.byteSent := by
  rw [show 64 = 8 + 8 * 7 from rfl, Function.iterate_add_apply, controllerStep_iterate_cycles hq hc h hi (le_refl 7),
    controllerStep_iterate_afterCycles hq h (le_refl 7), nextBit_last rfl]
  simp only [State.afterCycles, Nat.reduceAdd, cycleChain_eight]
  rfl

/-- Until the 64th micro-step the BYTESHIFT is in progress (10_state.md R16). -/
theorem controllerStep_iterate_busy (hi : s.bitIdx = 0#3) {k : Nat} (hk : k < 64) :
    (controllerStep^[k] s).busy = true := by
  rw [← Nat.mod_add_div k 8, Function.iterate_add_apply, controllerStep_iterate_cycles hq hc h hi (by omega)]
  exact (busy_iff _).2 (.inr (shift_iterate_stepReg (s := s.afterCycles _) hq rfl (Nat.mod_lt k (by decide))).1)

end

/-! ### The run of a BYTESHIFT (41_byteshift.md R92) -/

/-- From the lines at rest the first bit cycle finds what it needs. -/
theorem beginByteShift_shiftInv (v : Byte) (rest : List HostMove) {s : State} (hr : RestInv s) :
    ShiftInv 0 (beginByteShift v (s.setHost rest)) := by
  obtain ⟨-, -, hshift⟩ := beginByteShift_lineInv (s := s.setHost rest) v hr
  exact hshift rfl

section
variable {s : State} {w : CmdWord} {v : Byte} {rest : List HostMove} (hs : Sound s) (hq : s.seq = .idle)
  (hr : RestInv s) (hh : s.host = .issueWhenReady w :: rest) (hp : patient rest = true) (hd : decode w = .byteShift v)
include hs hq hr hh hp hd

/-- After its acceptance a BYTESHIFT runs by its micro-steps. -/
theorem run_byteShift_micro {n : Nat} (hn : n ≤ 64) : Host.Core.run Sys2Proof.core (n + 1) s =
    .next (controllerStep^[n] (beginByteShift v (s.setHost rest))) := by
  have haccept : step s = .next (redraw (beginByteShift v (s.setHost rest))) := by
    rw [step_issueWhenReady hs ((busy_false_iff s).2 (.inr hq)) hh, hd, exec_of_idle (s := s.setHost rest) _ hq]
    rfl
  rw [run_succ haccept, redraw_of_allOut (s := beginByteShift v (s.setHost rest)) hr.1]
  exact run_micro (s := beginByteShift v (s.setHost rest)) hs hp hr.1 n fun k hk =>
    controllerStep_iterate_busy rfl rfl (beginByteShift_shiftInv v rest hr) rfl (by omega)

/-- The whole run of a BYTESHIFT. -/
theorem run_byteShift :
    Host.Core.run Sys2Proof.core 65 s = .next (beginByteShift v (s.setHost rest)).byteSent := by
  rw [run_byteShift_micro hs hq hr hh hp hd (le_refl 64),
    controllerStep_iterate_byte rfl rfl (beginByteShift_shiftInv v rest hr) rfl]

end

/-! ### The shift stage after j of the eight shifts (20_memory.md R43) -/

/-- The first three micro-steps of a bit cycle: SER carries the bit and the chain has taken it in. -/
theorem controllerStep_iterate_s3 {s : State} (hq : s.seq = .shift) (hc : s.stepReg = 0#3) (h : ShiftInv 0 s) :
    controllerStep^[3] s = s.midCycle 3#3 { s.lvl with ser := dataBit s.dreg s.bitIdx, sck := true }
      (chainShift (dataBit s.dreg s.bitIdx) s.chain)
      [.write .ser (dataBit s.dreg s.bitIdx), .wait s.cfgDelay, .write .sck true] := by
  obtain ⟨ha, h1, hs, -, -⟩ := h
  replace hs : s.lvl.sck = false := hs
  calc controllerStep^[3] s
    _ = controllerStep^[3] (s.midCycle 0#3 s.lvl s.chain []) := by rw [State.midCycle_zero hc]
    _ = _ := by
      simp only [Function.iterate_succ_apply, Function.iterate_zero_apply, midCycle_s1 hq ha, midCycle_s2 hq,
        midCycle_s3 hq ha, h1, hs]
      simp

/-- The shift stage `x` after the levels `bs`, first level first, have been shifted in. -/
def shiftCells (bs : List Level) (x : Byte) : Byte := bs.foldl (fun y b => shiftCell b y) x

/-- Device 0 takes in the levels as they are sent. -/
theorem shiftIn_cons (bs : List Level) (d : Device) (ds : List Device) :
    ∃ es, shiftIn bs (d :: ds) = { d with sh := shiftCells bs d.sh } :: es := by
  induction bs generalizing d ds with
  | nil => exact ⟨ds, rfl⟩
  | cons b bs ih => exact ih { d with sh := shiftCell b d.sh } (chainShift (d.sh.getLsbD 0) ds)

/-- The cells after j shifts: the old ones moved j places down, and above them the bits sent so far. -/
theorem getLsbD_shiftCells (v x : Byte) (j : Nat) {i : Nat} (hi : i < 8) :
    (shiftCells ((List.range j).map v.getLsbD) x).getLsbD i =
      if i + j < 8 then x.getLsbD (i + j) else v.getLsbD (i + j - 8) := by
  induction j generalizing i with
  | zero => simp [shiftCells, hi]
  | succ j ih =>
    have hconcat : shiftCells ((List.range (j + 1)).map v.getLsbD) x =
        shiftCell (v.getLsbD j) (shiftCells ((List.range j).map v.getLsbD) x) := by
      simp [shiftCells, List.range_succ]
    rw [hconcat, getLsbD_shiftCell]
    by_cases h7 : i = 7
    · subst h7
      rw [if_pos rfl, if_neg (by omega), show 7 + (j + 1) - 8 = j by omega]
    · rw [if_neg h7, ih (by omega), Nat.add_right_comm, Nat.add_assoc]

/-- The same as the formula of 20_memory.md R43. -/
theorem shiftCells_eq (v x : Byte) {j : Nat} (hj : j ≤ 8) : shiftCells ((List.range j).map v.getLsbD) x =
    ((v &&& BitVec.ofNat 8 (2 ^ j - 1)) <<< (8 - j)) ||| (x >>> j) := by
  apply BitVec.eq_of_getLsbD_eq
  intro i hi
  rw [getLsbD_shiftCells v x j hi]
  simp only [BitVec.getLsbD_or, BitVec.getLsbD_shiftLeft, BitVec.getLsbD_and, BitVec.getLsbD_ofNat,
    Nat.testBit_two_pow_sub_one, BitVec.getLsbD_ushiftRight, hi, decide_true, Bool.true_and]
  by_cases h : i + j < 8
  · rw [if_pos h, decide_eq_true (by omega : i < 8 - j), Nat.add_comm j i]
    rfl
  · have hx : x.getLsbD (j + i) = false := BitVec.getLsbD_of_ge x _ (by omega)
    rw [if_neg h, hx, decide_eq_false (by omega : ¬ i < 8 - j), decide_eq_true (by omega : i - (8 - j) < 8),
      decide_eq_true (by omega : i - (8 - j) < j), show i + j - 8 = i - (8 - j) by omega]
    simp

/-- Settles O23: the shift stage of device 0 has taken in the bits of the cycles before, and S3 adds the current one. -/
theorem partialByteInShiftStage : Obligations.PartialByteInShiftStage := by
  intro s w v rest p ds j hs hq hr hh hp hd hchain h1 h8
  obtain ⟨n, rfl⟩ : ∃ n, j = n + 1 := ⟨j - 1, by omega⟩
  have hinv := beginByteShift_shiftInv v rest hr
  have hsteps : 1 + 8 * (n + 1 - 1) + 3 = (3 + 8 * n) + 1 := by omega
  rw [hsteps, run_byteShift_micro hs hq hr hh hp hd (by omega), Function.iterate_add_apply,
    controllerStep_iterate_cycles rfl rfl hinv rfl (by omega),
    controllerStep_iterate_s3 rfl rfl (shiftInv_afterCycles hinv n), dataBit_afterCycles (by omega)]
  obtain ⟨es, hes⟩ := shiftIn_cons ((List.range (n + 1)).map v.getLsbD) p ds
  have hsh : (chainShift (v.getLsbD n) (cycleChain s.params.latchMode v n s.chain)).map Device.sh =
      shiftCells ((List.range (n + 1)).map v.getLsbD) p.sh :: es.map Device.sh := by
    rw [chainShift_sh_congr _ (cycleChain_sh _ v n s.chain), ← shiftIn_concat, ← List.map_singleton, ← List.map_append,
      ← List.range_succ, hchain, hes]
    rfl
  obtain ⟨q, qs, hcons, hqsh, -⟩ := List.map_eq_cons_iff.1 hsh
  exact ⟨_, q, qs, rfl, rfl, hcons, hqsh.trans (shiftCells_eq v p.sh h8)⟩

/-! ### A sequence of bytes (20_memory.md R34, R44) -/

theorem decode_encode_byteShift (v : Byte) : decode (encode (.byteShift v)) = .byteShift v := by
  simp [decode, encode, opField_append, dataField_append]

/-- The shift stages after a whole byte (41_byteshift.md R92 (a)). -/
theorem byteSent_shiftStages (s : State) : shiftStages s.byteSent = (s.dreg :: shiftStages s).take s.chain.length :=
  (chainLatch_sh _).trans (passByte_sh s.dreg s.chain)

/-- All of it is latched (41_byteshift.md R92 (c)). -/
theorem byteSent_latchStages (s : State) : latchStages s.byteSent = shiftStages s.byteSent :=
  (chainLatch_lt _).trans (chainLatch_sh _).symm

@[simp] theorem byteSent_chain_length (s : State) : s.byteSent.chain.length = s.chain.length := by
  simp [State.byteSent]

theorem byteSent_sound {s : State} (hs : Sound s) : Sound s.byteSent :=
  ⟨hs.1, (wired_congr (s := s) (t := s.byteSent) rfl (byteSent_chain_length s)).2 hs.2⟩

/-- Bytes cut to the chain and pushed on by newer ones are cut once. -/
theorem take_append_take {α : Type} (a b : List α) (n : Nat) : (a ++ b.take n).take n = (a ++ b).take n := by
  rw [List.take_append, List.take_append, List.take_take, Nat.min_eq_left (Nat.sub_le ..)]

/-- Settles O28, by induction on the bytes: each is a run of 65 steps from rest to rest. -/
theorem bytesTravelDownTheChain : Obligations.BytesTravelDownTheChain := by
  intro vs
  induction vs with
  | nil =>
    intro s rest hs hq hr hh hp
    refine ⟨s, rfl, ?_, fun hn => absurd rfl hn, fun _ => rfl, rfl, hq, hh, hs, hr⟩
    exact (List.take_of_length_le (by simp [shiftStages])).symm
  | cons v vs ih =>
    intro s rest hs hq hr hh hp
    let more := vs.map (fun v => HostMove.issueWhenReady (encode (.byteShift v))) ++ rest
    have hmore : patient more = true := by simpa [patient, more] using hp
    let u := (beginByteShift v (s.setHost more)).byteSent
    have hrun : Host.Core.run Sys2Proof.core 65 s = .next u :=
      run_byteShift hs hq hr hh hmore (decode_encode_byteShift v)
    have hsound : Sound u := byteSent_sound (s := beginByteShift v (s.setHost more)) hs
    have hlen : u.chain.length = s.chain.length := byteSent_chain_length _
    have hsh : shiftStages u = (v :: shiftStages s).take s.chain.length := byteSent_shiftStages _
    have hlt : latchStages u = shiftStages u := byteSent_latchStages _
    obtain ⟨t, ht, hsht, hltt, hltn, ho, hqt, hht, hst, hrt⟩ := ih u rest hsound rfl hr rfl hp
    rw [hlen, hsh, take_append_take] at hsht
    refine ⟨t, ?_, ?_, fun _ => ?_, fun hn => absurd hn (by simp), ho, hqt, hht, hst, hrt⟩
    · rw [List.length_cons, Nat.mul_succ, Nat.add_comm, run_add 65 _ hrun, ht]
    · rw [hsht, List.reverse_cons, List.append_assoc, List.singleton_append]
    · by_cases hn : vs = []
      · rw [hltn hn, hlt, hsh, hsht, hn]
        rfl
      · exact hltt hn

/-! ### What an observer sees of a BYTESHIFT (20_memory.md R46, 30_encoding.md R70) -/

/-- The levels of the lines after the writes of a trace, from those before it. -/
def levelsAfter (p : PerLine Level) : List Event → PerLine Level
  | [] => p
  | .write l v :: es => levelsAfter (p.set l v) es
  | .config _ :: es => levelsAfter p es
  | .wait _ :: es => levelsAfter p es

@[simp] theorem observe_nil (p : PerLine Level) : observe p [] = [] := rfl

/-- The projection of a trace goes on from the levels that the first part of it leaves. -/
theorem observe_append (p : PerLine Level) (a b : List Event) :
    observe p (a ++ b) = observe p a ++ observe (levelsAfter p a) b := by
  induction a generalizing p with
  | nil => rfl
  | cons e a ih =>
    cases e with
    | config l => exact ih p
    | write l v =>
      simp only [List.cons_append, observe, levelsAfter]
      split <;> rename_i hv
      · rw [ih, ← hv, PerLine.set_get]
      · rw [ih, List.cons_append]
    | wait n =>
      simp only [List.cons_append, observe, levelsAfter]
      split
      · exact ih p
      · rw [ih, List.cons_append]

theorem levelsAfter_append (p : PerLine Level) (a b : List Event) :
    levelsAfter p (a ++ b) = levelsAfter (levelsAfter p a) b := by
  induction a generalizing p with
  | nil => rfl
  | cons e a ih => cases e <;> exact ih _

/-! What one event adds to the two counts. -/

section
variable (p : PerLine Level) (es : List Event)

theorem observe_write_pins (l : Line) (v : Level) : (observe p (.write l v :: es)).countP Observed.isPin =
    (v != p.get l).toNat + (observe (p.set l v) es).countP Observed.isPin := by
  rw [observe]
  split <;> rename_i hv
  · rw [← hv, PerLine.set_get, bne_self_eq_false, Bool.toNat_false, Nat.zero_add]
  · rw [List.countP_cons_of_pos rfl, bne_iff_ne.2 (Ne.symm hv), Bool.toNat_true, Nat.add_comm]

theorem observe_wait_pins (n : Ticks) :
    (observe p (.wait n :: es)).countP Observed.isPin = (observe p es).countP Observed.isPin := by
  rw [observe]
  split
  · rfl
  · exact List.countP_cons_of_neg (by simp [Observed.isPin])

theorem observe_write_waits (l : Line) (v : Level) : (observe p (.write l v :: es)).countP (fun o => !o.isPin) =
    (observe (p.set l v) es).countP fun o => !o.isPin := by
  rw [observe]
  split <;> rename_i hv
  · rw [← hv, PerLine.set_get]
  · exact List.countP_cons_of_neg (by simp [Observed.isPin])

theorem observe_wait_waits (n : Ticks) : (observe p (.wait n :: es)).countP (fun o => !o.isPin) =
    (if n = 0#16 then 0 else 1) + (observe p es).countP fun o => !o.isPin := by
  rw [observe]
  split
  · rw [Nat.zero_add]
  · rw [List.countP_cons_of_pos rfl, Nat.add_comm]

end

section
variable (m : LatchMode) (delay : Ticks) (v : Byte)

/-- A bit cycle leaves its bit on SER and the clocks low. -/
theorem levelsAfter_bitListing (i : Nat) {p : PerLine Level} (hs : p.sck = false) (hr : p.rck = false) :
    levelsAfter p (bitListing m delay v i) = p.set .ser (v.getLsbD i) := by
  unfold bitListing latchListing
  split <;> simp [levelsAfter, PerLine.set, hs, hr]

/-- The changes of level in one bit cycle: a pulse of SCK, one of RCK if it latches, and SER if the bit is another. -/
theorem observe_bitListing_pins (i : Nat) {p : PerLine Level} (hs : p.sck = false) (hr : p.rck = false) :
    (observe p (bitListing m delay v i)).countP Observed.isPin =
      2 + (if m = .perBit ∨ i = 7 then 2 else 0) + (v.getLsbD i != p.ser).toNat := by
  unfold bitListing latchListing
  rw [Nat.add_comm]
  split <;> simp [observe_write_pins, observe_wait_pins, PerLine.set, hs, hr]

theorem observe_bitListing_waits (i : Nat) (p : PerLine Level) :
    (observe p (bitListing m delay v i)).countP (fun o => !o.isPin) = if delay = 0#16 then 0 else 3 := by
  unfold bitListing latchListing
  split <;> simp only [List.cons_append, List.nil_append, observe_write_waits, observe_wait_waits, observe_nil,
    List.countP_nil] <;> split <;> rfl

variable {p : PerLine Level} (hs : p.sck = false) (hr : p.rck = false)
include hs hr

theorem levelsAfter_cycles (n : Nat) :
    levelsAfter p ((List.range n).flatMap (bitListing m delay v)) = p.set .ser (lastSent p.ser v n) := by
  induction n with
  | zero => exact (PerLine.set_get p .ser).symm
  | succ n ih =>
    rw [List.range_succ, List.flatMap_append, List.flatMap_singleton, levelsAfter_append, ih,
      levelsAfter_bitListing m delay v n (p := p.set .ser (lastSent p.ser v n)) hs hr, PerLine.set_set]
    rfl

/-- What is counted of the observable events adds up over the bit cycles. -/
theorem countP_observe_cycles (f : Observed → Bool) (n : Nat) :
    (observe p ((List.range (n + 1)).flatMap (bitListing m delay v))).countP f =
      (observe p ((List.range n).flatMap (bitListing m delay v))).countP f +
        (observe (p.set .ser (lastSent p.ser v n)) (bitListing m delay v n)).countP f := by
  rw [List.range_succ, List.flatMap_append, List.flatMap_singleton, observe_append, List.countP_append,
    levelsAfter_cycles m delay v hs hr]

theorem observe_cycles_pins (n : Nat) :
    (observe p ((List.range n).flatMap (bitListing m delay v))).countP Observed.isPin =
      2 * n + 2 * (List.range n).countP (fun i => m = .perBit ∨ i = 7) +
        (List.range n).countP fun i => v.getLsbD i != lastSent p.ser v i := by
  induction n with
  | zero => rfl
  | succ n ih =>
    have hcycle : _ = 2 + _ + (v.getLsbD n != lastSent p.ser v n).toNat :=
      observe_bitListing_pins m delay v n (p := p.set .ser (lastSent p.ser v n)) hs hr
    rw [countP_observe_cycles m delay v hs hr, ih, hcycle, List.range_succ, List.countP_append, List.countP_append,
      List.countP_singleton, List.countP_singleton]
    simp only [decide_eq_true_eq, Bool.toNat, Bool.cond_eq_ite]
    split <;> omega

theorem observe_cycles_waits (n : Nat) :
    (observe p ((List.range n).flatMap (bitListing m delay v))).countP (fun o => !o.isPin) =
      if delay = 0#16 then 0 else 3 * n := by
  induction n with
  | zero => simp
  | succ n ih =>
    rw [countP_observe_cycles m delay v hs hr, ih, observe_bitListing_waits]
    split <;> omega

end

/-- The changes of SER, each bit against the level it finds there (30_encoding.md R70). -/
theorem serChanges_eq (start : Level) (v : Byte) :
    serChanges start v = (List.range 8).countP fun i => v.getLsbD i != lastSent start v i := by
  unfold serChanges
  congr 1
  funext i
  cases i <;> rfl

/-- Settles O25: the changes and the waits of the eight bit cycles, added up. -/
theorem observedLevelChanges : Obligations.ObservedLevelChanges := by
  intro m delay v levels hs hr
  have hlatch : 2 * 8 + 2 * (List.range 8).countP (fun i => m = .perBit ∨ i = 7) = if m = .perBit then 32 else 18 := by
    cases m <;> decide
  refine ⟨?_, observe_cycles_waits m delay v hs hr 8⟩
  rw [byteListing, observe_cycles_pins m delay v hs hr, hlatch, serChanges_eq]

end Sys2Proof.Machine
end

section
/-! SUPPORT. Proofs of the statements on the command word and the commands (30_encoding.md): the decoder and the encoder
as the two fields of a word, and what the acceptance of a command changes and leaves unchanged. -/

namespace Sys2Proof

open Laws

/-! ### The command word (30_encoding.md R60, R61, R64) -/

theorem encode_eq_append (i : Instr) : encode i = OpcodeRow.op i ++ OpcodeRow.data i := by
  cases i <;> rfl

/-- The decoder reads the two fields and nothing else. -/
theorem decode_eq_iff_fields {w : CmdWord} {i : Instr} :
    decode w = i ↔ opField w = OpcodeRow.op i ∧ dataField w = OpcodeRow.data i := by
  unfold decode
  rcases opField_cases w with h | h | h | h <;> cases i <;> simp [h, OpcodeRow.op, OpcodeRow.data]

/-- Decoder and encoder are each other's inverse on the command words. -/
theorem decode_eq_iff_eq_encode {w : CmdWord} {i : Instr} : decode w = i ↔ w = encode i := by
  rw [decode_eq_iff_fields, encode_eq_append]
  constructor
  · rintro ⟨ho, hd⟩
    rw [← ho, ← hd, opField_append_dataField]
  · rintro rfl
    exact ⟨opField_append .., dataField_append ..⟩

theorem decode_encode (i : Instr) : decode (encode i) = i := decode_eq_iff_eq_encode.2 rfl

theorem encode_injective : Function.Injective encode := Function.LeftInverse.injective decode_encode

theorem decodeWord_of_lt {n : Nat} (h : n < 2 ^ 10) : decodeWord n = .ok (decode (BitVec.ofNat 10 n)) := if_pos h

theorem decodeWord_of_ge {n : Nat} (h : 2 ^ 10 ≤ n) : decodeWord n = .error .widerThanCommandWord :=
  if_neg (Nat.not_lt.2 h)

/-- Settles O1: on the command words the decoder inverts the encoder, and a wider number is no word of any command. -/
theorem decodeInvertsEncode : Obligations.DecodeInvertsEncode := by
  refine ⟨fun n i => ?_, fun n => decodeWord_of_ge⟩
  by_cases hn : n < 2 ^ 10
  · rw [decodeWord_of_lt hn, Except.ok.injEq, decode_eq_iff_eq_encode, ← BitVec.toNat_inj, BitVec.toNat_ofNat,
      Nat.mod_eq_of_lt hn]
  · rw [decodeWord_of_ge (Nat.not_lt.1 hn)]
    exact iff_of_false nofun fun he => hn (he ▸ (encode i).isLt)

/-- The mask of the opcode map keeps `op` and clears `data`. -/
theorem and_opcodeMask (w : CmdWord) : w &&& 0x300#10 = opField w ++ 0x00#8 := by
  have hmask : 0x300#10 = BitVec.allOnes 2 ++ 0x00#8 := by decide
  rw [hmask, ← opField_append_dataField w, BitVec.and_append, opField_append, BitVec.and_allOnes, BitVec.and_zero]

/-- A word is the command of a row, with its data field, exactly when the mask leaves the row's match value. -/
theorem decode_eq_iff_mask {w m : CmdWord} {i : Instr} (o : BitVec 2)
    (hi : OpcodeRow.op i = o ∧ OpcodeRow.data i = dataField w) (hm : o ++ 0x00#8 = m) :
    decode w = i ↔ w &&& 0x300#10 = m := by
  obtain ⟨rfl, hd⟩ := hi
  rw [decode_eq_iff_fields, and_iff_left hd.symm, and_opcodeMask, ← hm]
  refine ⟨fun h => by rw [h], fun h => ?_⟩
  rw [← opField_append (opField w) 0x00#8, h, opField_append]

theorem encode_byteShift_eq_add (d : Byte) : encode (.byteShift d) = 0x100#10 + d.setWidth 10 := by
  apply BitVec.eq_of_toNat_eq
  have happ : (encode (.byteShift d)).toNat = 1 <<< 8 ||| d.toNat := BitVec.toNat_append 0b01#2 d
  rw [happ, ← Nat.shiftLeft_add_eq_or_of_lt d.isLt]
  bv_omega

/-- Settles O2: a word is a command when its `op` is, and the mask and the match value compare nothing else. -/
theorem opcodeMapRows : Obligations.OpcodeMapRows :=
  ⟨fun _ => ⟨decode_eq_iff_mask 0b00#2 ⟨rfl, rfl⟩ rfl, decode_eq_iff_mask 0b01#2 ⟨rfl, rfl⟩ rfl,
    decode_eq_iff_mask 0b10#2 ⟨rfl, rfl⟩ rfl, decode_eq_iff_mask 0b11#2 ⟨rfl, rfl⟩ rfl⟩,
    rfl, encode_byteShift_eq_add, rfl, rfl⟩

/-- The canonical commands are those whose word is one of the canonical words (30_encoding.md R64). -/
theorem wellFormed_iff_canonicalWord (i : Instr) : i.wellFormed = true ↔
    encode i = 0x000#10 ∨ (∃ d, i = .byteShift d) ∨ encode i = 0x200#10 ∨ encode i = 0x300#10 := by
  have hword (j : Instr) : encode i = encode j ↔ i = j := encode_injective.eq_iff
  have h0 : encode i = 0x000#10 ↔ i = .construct 0x00#8 := hword (.construct 0x00#8)
  have h2 : encode i = 0x200#10 ↔ i = .enableOutput 0x00#8 := hword (.enableOutput 0x00#8)
  have h3 : encode i = 0x300#10 ↔ i = .disableOutput 0x00#8 := hword (.disableOutput 0x00#8)
  rw [h0, h2, h3]
  cases i <;> simp [Instr.wellFormed]

/-- `op` alone says whether a word is a CONSTRUCT. -/
theorem opField_eq_zero_iff (w : CmdWord) : opField w = 0b00#2 ↔ ∃ d, decode w = .construct d := by
  simp only [decode_eq_iff_fields]
  exact ⟨fun h => ⟨dataField w, h, rfl⟩, fun ⟨_, h, _⟩ => h⟩

end Sys2Proof

namespace Sys2Proof.Machine

/-! ### The acceptance of a command (30_encoding.md R66) -/

/-- What an issued word records in FAULT: its timing alone can be wrong, and busy is checked first
(60_exceptions.md R115). -/
theorem exec_decode_fault (w : CmdWord) {s : State} (hf : s.fault = none) :
    ∃ t, exec (decode w) s = .next t ∧ t.fault = (if s.busy = true then some .cmdWhileBusy
      else if s.seq = .unconstructed ∧ opField w ≠ 0b00#2 then some .useBeforeConstruct else none) := by
  cases hb : s.busy with
  | true => exact ⟨_, exec_of_busy _ hb, by simp [hf]⟩
  | false =>
    rcases (busy_false_iff s).1 hb with hq | hq
    · by_cases ho : opField w = 0b00#2
      · obtain ⟨d, hd⟩ := (opField_eq_zero_iff w).1 ho
        exact ⟨_, hd ▸ exec_construct d hb, by simp [ho, beginConstruct, hf]⟩
      · have hi : ∀ d, decode w ≠ .construct d := not_exists.1 (mt (opField_eq_zero_iff w).2 ho)
        exact ⟨_, exec_of_unconstructed hq hi, by simp [hf, hq, ho]⟩
    · have hkeep (i : Instr) : (idleEffect i s).fault = s.fault := by cases i <;> rfl
      exact ⟨_, exec_of_idle _ hq, by simp [hkeep, hf, hq]⟩

/-- Settles O3: no arm reads the ignored field, and of the word a fault depends on `op` alone. -/
theorem ignoredFieldAndNoIllegalWord : Obligations.IgnoredFieldAndNoIllegalWord :=
  ⟨fun _ hn => ⟨_, decodeWord_of_lt hn⟩, fun _ _ _ => ⟨rfl, rfl, rfl⟩, wellFormed_iff_canonicalWord,
    fun w _ => exec_decode_fault w⟩

/-- Settles O12: BUSY = 0 is all that CONSTRUCT asks for. -/
theorem constructAccepted : Obligations.ConstructAccepted := fun _ d hb => exec_construct d hb

/-- Settles O20: in IDLE every command takes its effect. -/
theorem byteShiftAccepted : Obligations.ByteShiftAccepted := fun _ v hq => exec_of_idle (.byteShift v) hq

/-! ### What a command leaves unchanged -/

section
variable {i : Instr} {s t : State}

/-- No command writes the drive modes, the parameters, the inputs or the moves to come. -/
theorem exec_keeps_environment (h : exec i s = .next t) : t.dir = s.dir ∧ t.params = s.params ∧
    t.cfgSettleIn = s.cfgSettleIn ∧ t.cfgDelayIn = s.cfgDelayIn ∧ t.host = s.host := by
  rcases exec_cases h with ⟨f, -, rfl⟩ | ⟨d, -, -, rfl⟩ | ⟨d, -, -, rfl⟩ | ⟨d, -, -, rfl⟩ | ⟨d, -, -, rfl⟩ <;>
    exact ⟨rfl, rfl, rfl, rfl, rfl⟩

/-- No command writes RCK, so none latches. -/
theorem exec_latchStages (h : exec i s = .next t) : latchStages t = latchStages s := by
  rcases exec_cases h with ⟨f, -, rfl⟩ | ⟨d, -, -, rfl⟩ | ⟨d, -, -, rfl⟩ | ⟨d, -, -, rfl⟩ | ⟨d, -, -, rfl⟩
  · rfl
  · rfl
  · rfl
  · exact lineWrite_oeN_latchStages false s
  · exact lineWrite_oeN_latchStages true s

/-- A command writes no line but OE_n. -/
theorem exec_lvl_get (h : exec i s = .next t) {l : Line} (hl : l ≠ .oeN) : t.lvl.get l = s.lvl.get l := by
  rcases exec_cases h with ⟨f, -, rfl⟩ | ⟨d, -, -, rfl⟩ | ⟨d, -, -, rfl⟩ | ⟨d, -, -, rfl⟩ | ⟨d, -, -, rfl⟩
  · rfl
  · rfl
  · rfl
  · exact PerLine.get_set_ne s.lvl hl false
  · exact PerLine.get_set_ne s.lvl hl true

/-- A command that records a fault changes nothing else (60_exceptions.md R111). -/
theorem exec_of_fault_ne (h : exec i s = .next t) (hf : t.fault ≠ s.fault) : t = { s with fault := t.fault } := by
  rcases exec_cases h with ⟨f, -, rfl⟩ | ⟨d, -, -, rfl⟩ | ⟨d, -, -, rfl⟩ | ⟨d, -, -, rfl⟩ | ⟨d, -, -, rfl⟩
  · rfl
  all_goals exact absurd rfl hf

theorem exec_construct_frame {d : Byte} (h : exec (.construct d) s = .next t) : t.dreg = s.dreg ∧
    t.bitIdx = s.bitIdx ∧ t.lvl = s.lvl ∧ t.chain = s.chain ∧ t.trace = s.trace ∧ t.free = s.free := by
  rcases exec_cases h with ⟨f, -, rfl⟩ | ⟨e, -, -, rfl⟩ | ⟨e, ⟨⟩, -⟩ | ⟨e, ⟨⟩, -⟩ | ⟨e, ⟨⟩, -⟩ <;>
    exact ⟨rfl, rfl, rfl, rfl, rfl, rfl⟩

theorem exec_byteShift_frame {d : Byte} (h : exec (.byteShift d) s = .next t) : t.cfgSettle = s.cfgSettle ∧
    t.cfgDelay = s.cfgDelay ∧ t.lvl = s.lvl ∧ t.chain = s.chain ∧ t.trace = s.trace ∧ t.free = s.free := by
  rcases exec_cases h with ⟨f, -, rfl⟩ | ⟨e, ⟨⟩, -⟩ | ⟨e, -, -, rfl⟩ | ⟨e, ⟨⟩, -⟩ | ⟨e, ⟨⟩, -⟩ <;>
    exact ⟨rfl, rfl, rfl, rfl, rfl, rfl⟩

/-- A gating command records a fault or writes OE_n. -/
theorem exec_gating_cases {d : Byte} (hi : i = .enableOutput d ∨ i = .disableOutput d) (h : exec i s = .next t) :
    (∃ f, t = { s with fault := some f }) ∨ ∃ v, t = lineWrite .oeN v s := by
  rcases exec_cases h with ⟨f, -, rfl⟩ | ⟨e, rfl, -⟩ | ⟨e, rfl, -⟩ | ⟨e, -, -, rfl⟩ | ⟨e, -, -, rfl⟩
  · exact .inl ⟨_, rfl⟩
  · simp at hi
  · simp at hi
  · exact .inr ⟨false, rfl⟩
  · exact .inr ⟨true, rfl⟩

/-- With the lines at rest a write to OE_n sets its level and is recorded, and the chain does not react. -/
theorem lineWrite_oeN_of_restInv (hr : RestInv s) (v : Level) :
    lineWrite .oeN v s = { s with lvl := s.lvl.set .oeN v, trace := s.trace ++ [.write .oeN v] } := by
  obtain ⟨ha, -, -, h1⟩ := hr
  exact lineWrite_quiet ha h1 .oeN v (by decide) (by simp) (by simp)

theorem exec_gating_frame {d : Byte} (hi : i = .enableOutput d ∨ i = .disableOutput d) (h : exec i s = .next t) :
    t.seq = s.seq ∧ t.stepReg = s.stepReg ∧ t.bitIdx = s.bitIdx ∧ t.dreg = s.dreg ∧ t.cfgSettle = s.cfgSettle ∧
      t.cfgDelay = s.cfgDelay ∧ (RestInv s → t.chain = s.chain ∧ t.free = s.free) := by
  rcases exec_gating_cases hi h with ⟨f, rfl⟩ | ⟨v, rfl⟩
  · exact ⟨rfl, rfl, rfl, rfl, rfl, rfl, fun _ => ⟨rfl, rfl⟩⟩
  · refine ⟨rfl, rfl, rfl, rfl, rfl, rfl, fun hr => ?_⟩
    rw [lineWrite_oeN_of_restInv hr]
    exact ⟨rfl, rfl⟩

end

/-- Settles O34, clause by clause from what a command can do. -/
theorem commandFrames : Obligations.CommandFrames := by
  intro i s t h
  obtain ⟨hdir, hparams, hsettle, hdelay, hhost⟩ := exec_keeps_environment h
  exact ⟨hdir, hparams, hsettle, hdelay, hhost, exec_latchStages h, fun _ => exec_lvl_get h, exec_of_fault_ne h,
    fun _ hi => exec_construct_frame (hi ▸ h), fun _ hi => exec_byteShift_frame (hi ▸ h),
    fun _ hi => exec_gating_frame hi h⟩

end Sys2Proof.Machine
end

section
/-! SUPPORT. Proofs of the statements on the events of a whole operation (30_encoding.md R69, R70): the run of a
CONSTRUCT from its acceptance to IDLE, and what a CONSTRUCT and a BYTESHIFT record. -/

namespace Sys2Proof.Machine

/-! ### The run of CONSTRUCT (40_construct.md R80, R81) -/

/-- While CONSTRUCT runs, STEP counts its micro-steps from I1 on. -/
theorem init_iterate_stepReg {s : State} (hq : s.seq = .init) (hc : s.stepReg = 1#3) {k : Nat} (hk : k < 7) :
    (controllerStep^[k] s).seq = .init ∧ (controllerStep^[k] s).stepReg = BitVec.ofNat 3 (k + 1) := by
  induction k with
  | zero => exact ⟨hq, hc⟩
  | succ k ih =>
    obtain ⟨hq', hc'⟩ := ih (by omega)
    have h7 : (controllerStep^[k] s).stepReg ≠ 7#3 := by
      rw [hc']
      bv_omega
    obtain ⟨hseq, hstep, -⟩ := (controllerStep_effect ((busy_iff _).2 (.inl hq'))).advance h7
    rw [Function.iterate_succ_apply']
    exact ⟨hseq.trans hq', by rw [hstep, hc', BitVec.ofNat_add_ofNat]⟩

theorem chainClear_allClear (c : List Device) : AllClear (chainClear c) := fun _ => chainClear_sh

/-- Clearing in I1 too, where CLR_n is low already, makes no difference to the clear of I2. -/
theorem chainClear_ite (b : Prop) [Decidable b] (c : List Device) :
    chainClear (if b then chainClear c else c) = chainClear c := by
  split
  · exact chainClear_of_clear (chainClear_allClear c)
  · rfl

/-! The micro-steps I1 to I7 as what they do to the levels, the chain and the events, told with `State.midCycle` as
those of a bit cycle are. -/

section
variable {s : State} (hq : s.seq = .init) (ha : s.allOut = true) (p : PerLine Level) (d : List Device) (es : List Event)
include hq

theorem midCycle_i6 : controllerStep (s.midCycle 6#3 p d es) = s.midCycle 7#3 p d (es ++ [.wait s.cfgSettle]) :=
  (init_i6 (s := s.midCycle 6#3 p d es) hq rfl).trans (by simp [State.midCycle])

include ha

theorem midCycle_i1 : controllerStep (s.midCycle 1#3 p d es) =
    s.midCycle 2#3 { p with oeN := true } (if p.clrN = false then chainClear d else d) (es ++ [.write .oeN true]) :=
  (init_i1 (s := s.midCycle 1#3 p d es) hq rfl ha).trans (by simp [State.midCycle]; rfl)

theorem midCycle_i2 : controllerStep (s.midCycle 2#3 p d es) =
    s.midCycle 3#3 { p with clrN := false } (chainClear d) (es ++ [.write .clrN false]) :=
  (init_i2 (s := s.midCycle 2#3 p d es) hq rfl ha).trans (by simp [State.midCycle])

theorem midCycle_i7 : controllerStep (s.midCycle 7#3 p d es) =
    (s.midCycle 7#3 { p with clrN := true } d (es ++ [.write .clrN true])).setSeq .idle :=
  (init_i7 (s := s.midCycle 7#3 p d es) hq rfl ha).trans (by simp [State.midCycle, State.setSeq])

variable {d} (hz : AllClear d)
include hz

theorem midCycle_i3 (h0 : p.clrN = false) : controllerStep (s.midCycle 3#3 p d es) =
    s.midCycle 4#3 { p with sck := false } d (es ++ [.write .sck false]) :=
  (init_i3 (s := s.midCycle 3#3 p d es) hq rfl ha h0 hz).trans (by simp [State.midCycle])

theorem midCycle_i4 (h0 : p.clrN = false) : controllerStep (s.midCycle 4#3 p d es) =
    s.midCycle 5#3 { p with rck := false } d (es ++ [.write .rck false]) :=
  (init_i4 (s := s.midCycle 4#3 p d es) hq rfl ha h0 hz).trans (by simp [State.midCycle])

theorem midCycle_i5 (h0 : p.clrN = false) : controllerStep (s.midCycle 5#3 p d es) =
    s.midCycle 6#3 { p with ser := false } d (es ++ [.write .ser false]) :=
  (init_i5 (s := s.midCycle 5#3 p d es) hq rfl ha h0 hz).trans (by simp [State.midCycle])

end

theorem State.midCycle_self {s : State} {c : BitVec 3} (hc : s.stepReg = c) :
    s.midCycle c s.lvl s.chain [] = s := by
  simp [State.midCycle, ← hc]

/-- `s`, at I1, after the last micro-step of its CONSTRUCT (40_construct.md R81). -/
def State.constructDone (s : State) : State :=
  { s with
    seq := .idle
    stepReg := 7#3
    lvl := ⟨false, false, false, true, true⟩
    chain := chainClear s.chain
    trace := s.trace ++ constructListing s.cfgSettle }

/-- The micro-steps I1 to I7, on lines that are outputs. -/
theorem controllerStep_iterate_construct {s : State} (hq : s.seq = .init) (hc : s.stepReg = 1#3)
    (ha : s.allOut = true) : controllerStep^[7] s = s.constructDone := by
  have hz : AllClear (chainClear s.chain) := chainClear_allClear s.chain
  calc controllerStep^[7] s
    _ = controllerStep^[7] (s.midCycle 1#3 s.lvl s.chain []) := by rw [State.midCycle_self hc]
    _ = _ := by
      simp only [Function.iterate_succ_apply, Function.iterate_zero_apply, midCycle_i1 hq ha, midCycle_i2 hq ha,
        midCycle_i3 hq ha _ _ hz, midCycle_i4 hq ha _ _ hz, midCycle_i5 hq ha _ _ hz, midCycle_i6 hq,
        midCycle_i7 hq ha, chainClear_ite]
      simp [State.midCycle, State.setSeq, State.constructDone, constructListing]

/-- After I0 a CONSTRUCT runs by its micro-steps, on lines that are outputs. -/
theorem run_init {s : State} (hs : Sound s) (hp : patient s.host = true) (hq : s.seq = .init) (hc : s.stepReg = 0#3)
    {n : Nat} (hn : n ≤ 7) :
    Host.Core.run Sys2Proof.core (n + 1) s = .next (controllerStep^[n] ((configAll s).setStep 1#3)) := by
  have ha : ((configAll s).setStep 1#3).allOut = true := by simp
  have hu : Sound ((configAll s).setStep 1#3) := init_i0 hq hc ▸ controllerStep_sound hs
  rw [run_busy hs hp ((busy_iff s).2 (.inl hq)), init_i0 hq hc, redraw_of_allOut ha]
  refine run_micro hu (by simpa using hp) ha n fun k hk => (busy_iff _).2 (.inl ?_)
  exact (init_iterate_stepReg (by simpa using hq) rfl (by omega)).1

/-- `s` after the acceptance of CONSTRUCT and I0, at I1, with the moves `rest` still to come. -/
def State.linesConfigured (s : State) (rest : List HostMove) : State :=
  (configAll (redraw (beginConstruct (s.setHost rest)))).setStep 1#3

theorem linesConfigured_seq (s : State) (rest : List HostMove) : (s.linesConfigured rest).seq = .init :=
  (State.setStep_seq ..).trans (configAll_seq _)

theorem linesConfigured_allOut (s : State) (rest : List HostMove) : (s.linesConfigured rest).allOut = true :=
  (State.setStep_allOut ..).trans (configAll_allOut _)

theorem linesConfigured_trace (s : State) (rest : List HostMove) :
    (s.linesConfigured rest).trace = s.trace ++ configListing s.dir :=
  (State.setStep_trace ..).trans (configAll_trace _)

theorem linesConfigured_cfgSettle (s : State) (rest : List HostMove) :
    (s.linesConfigured rest).cfgSettle = s.cfgSettleIn :=
  (State.setStep_cfgSettle ..).trans (configAll_cfgSettle _)

section
variable {s : State} {w : CmdWord} {d : Byte} {rest : List HostMove} (hs : Sound s) (hb : s.busy = false)
  (hh : s.host = .issueWhenReady w :: rest) (hp : patient rest = true) (hd : decode w = .construct d)
include hs hb hh hp hd

/-- After its acceptance and I0 a CONSTRUCT runs by its micro-steps. -/
theorem run_construct_micro {n : Nat} (hn : n ≤ 7) :
    Host.Core.run Sys2Proof.core (n + 2) s = .next (controllerStep^[n] (s.linesConfigured rest)) := by
  have haccept : step s = .next (redraw (beginConstruct (s.setHost rest))) := by
    rw [step_issueWhenReady hs hb hh, hd, exec_construct (s := s.setHost rest) d hb]
    rfl
  rw [run_succ haccept]
  exact run_init (s := redraw (beginConstruct (s.setHost rest))) hs hp rfl rfl hn

/-- The whole run of a CONSTRUCT. -/
theorem run_construct : Host.Core.run Sys2Proof.core 9 s = .next (s.linesConfigured rest).constructDone := by
  rw [run_construct_micro hs hb hh hp hd (le_refl 7),
    controllerStep_iterate_construct (linesConfigured_seq s rest) rfl (linesConfigured_allOut s rest)]

end

/-! ### The events of CONSTRUCT (30_encoding.md R69, R70; 70_reset_and_hazards.md R151) -/

/-- CONSTRUCT writes no clock high, so none rises. -/
theorem countRises_constructListing (settle : Ticks) (levels : PerLine Level) :
    countRises .sck levels (constructListing settle) = 0 ∧ countRises .rck levels (constructListing settle) = 0 := by
  simp [constructListing, countRises]

/-- Settles O15: the events of I0, and after them those of I1 to I7. -/
theorem constructEvents : Obligations.ConstructEvents := by
  intro s w d rest hs hb hh hp hd
  refine ⟨_, constructListing s.cfgSettleIn, run_construct hs hb hh hp hd, ?_, rfl, rfl, rfl, rfl,
    countRises_constructListing s.cfgSettleIn⟩
  rw [State.constructDone, linesConfigured_trace, linesConfigured_cfgSettle]

/-! ### The events of BYTESHIFT (30_encoding.md R69, R70; 70_reset_and_hazards.md R151) -/

theorem countWaits_append (a b : List Event) : countWaits (a ++ b) = countWaits a + countWaits b := by
  induction a with
  | nil => simp [countWaits]
  | cons e a ih => cases e <;> simp [countWaits, ih, Nat.add_right_comm]

theorem countWrites_append (a b : List Event) : countWrites (a ++ b) = countWrites a + countWrites b := by
  induction a with
  | nil => simp [countWrites]
  | cons e a ih => cases e <;> simp [countWrites, ih, Nat.add_right_comm]

theorem totalTicks_append (a b : List Event) : totalTicks (a ++ b) = totalTicks a + totalTicks b := by
  induction a with
  | nil => simp [totalTicks]
  | cons e a ih => cases e <;> simp [totalTicks, ih, Nat.add_assoc]

section
variable (m : LatchMode) (delay : Ticks) (v : Byte)

theorem countWaits_bitListing (i : Nat) : countWaits (bitListing m delay v i) = 3 := by
  unfold bitListing latchListing
  split <;> rfl

theorem totalTicks_bitListing (i : Nat) : totalTicks (bitListing m delay v i) = 3 * delay.toNat := by
  unfold bitListing latchListing
  split <;> simp only [List.cons_append, List.nil_append, totalTicks] <;> omega

theorem countWrites_bitListing (i : Nat) :
    countWrites (bitListing m delay v i) = 4 + if m = .perBit ∨ i = 7 then 1 else 0 := by
  unfold bitListing latchListing
  split <;> rfl

/-- What is counted of the events of a BYTESHIFT adds up over its bit cycles. -/
theorem count_byteListing (f : List Event → Nat) (h0 : f [] = 0) (happ : ∀ a b, f (a ++ b) = f a + f b) :
    f (byteListing m delay v) = ((List.range 8).map fun i => f (bitListing m delay v i)).sum := by
  unfold byteListing
  induction List.range 8 with
  | nil => exact h0
  | cons i is ih => rw [List.flatMap_cons, happ, ih, List.map_cons, List.sum_cons]

theorem countWaits_byteListing : countWaits (byteListing m delay v) = 24 := by
  simp only [count_byteListing m delay v countWaits rfl countWaits_append, countWaits_bitListing]
  rfl

theorem totalTicks_byteListing : totalTicks (byteListing m delay v) = 24 * delay.toNat := by
  simp only [count_byteListing m delay v totalTicks rfl totalTicks_append, totalTicks_bitListing, List.map_const',
    List.sum_replicate, List.length_range, smul_eq_mul]
  omega

theorem countWrites_byteListing :
    countWrites (byteListing m delay v) = if m = .perBit then 40 else 33 := by
  simp only [count_byteListing m delay v countWrites rfl countWrites_append, countWrites_bitListing]
  cases m <;> rfl

end

/-- Settles O24: the run of a BYTESHIFT records its listing, counted over the eight bit cycles. -/
theorem byteShiftEvents : Obligations.ByteShiftEvents := fun s _ v _ hs hq hr hh hp hd =>
  ⟨_, byteListing s.params.latchMode s.cfgDelay v, run_byteShift hs hq hr hh hp hd, rfl, rfl,
    countWaits_byteListing .., totalTicks_byteListing .., countWrites_byteListing ..⟩

end Sys2Proof.Machine
end

section
/-! SUPPORT. Proofs of the statements on CONSTRUCT (40_construct.md): where its run ends, and that the outputs are blank
from I1 on. -/

namespace Sys2Proof.Machine

/-! ### The end of CONSTRUCT (40_construct.md R81 (a) to (e)) -/

/-- I1 to I7 only clear the chain, which keeps its latch stages. -/
theorem constructDone_latchStages (s : State) : latchStages s.constructDone = latchStages s := chainClear_lt s.chain

/-- On a block that is already constructed I0 keeps the latch stages too (40_construct.md R81 (e)). -/
theorem linesConfigured_latchStages {s : State} (rest : List HostMove) (ha : s.allOut = true) :
    latchStages (s.linesConfigured rest) = latchStages s := by
  rw [State.linesConfigured, configAll_of_allOut (s := redraw (beginConstruct (s.setHost rest))) ha]
  rfl

theorem linesConfigured_chain_length (s : State) (rest : List HostMove) :
    (s.linesConfigured rest).chain.length = s.chain.length := by
  rw [State.linesConfigured, State.setStep_chain, configAll_chain_length]
  rfl

/-- What CONSTRUCT writes neither at its acceptance nor in I0, and what its acceptance samples. -/
theorem linesConfigured_frame (s : State) (rest : List HostMove) :
    (s.linesConfigured rest).cfgSettle = s.cfgSettleIn ∧ (s.linesConfigured rest).cfgDelay = s.cfgDelayIn ∧
      (s.linesConfigured rest).dreg = s.dreg ∧ (s.linesConfigured rest).bitIdx = s.bitIdx ∧
      (s.linesConfigured rest).fault = s.fault ∧ (s.linesConfigured rest).params = s.params ∧
      (s.linesConfigured rest).host = rest := by
  simp [State.linesConfigured, beginConstruct]

theorem constructDone_allOut {s : State} (ha : s.allOut = true) : s.constructDone.allOut = true := ha

theorem constructDone_chain_length (s : State) : s.constructDone.chain.length = s.chain.length :=
  chainClear_length s.chain

/-- CONSTRUCT ends with the wires at the idle levels of R81 (a). -/
theorem constructDone_pins {s : State} (ha : s.allOut = true) :
    s.constructDone.pins = ⟨false, false, false, true, true⟩ :=
  State.pins_allOut (constructDone_allOut ha)

/-- CONSTRUCT ends with OE_n high. -/
theorem constructDone_outputs {s : State} (ha : s.allOut = true) :
    s.constructDone.outputs = List.replicate s.chain.length .blank := by
  rw [State.outputs_allOut (constructDone_allOut ha), constructDone_chain_length]
  rfl

/-- Settles O13: I0 makes the lines outputs, and I1 to I7 leave the levels and the chain of `State.constructDone`. -/
theorem constructRunsToRest : Obligations.ConstructRunsToRest := by
  intro s w d rest hs hb hh hp hd
  have hrun := run_construct hs hb hh hp hd
  have ha := linesConfigured_allOut s rest
  have hlen := linesConfigured_chain_length s rest
  have hlatch := linesConfigured_latchStages (s := s) rest
  obtain ⟨hsettle, hdelay, hdreg, hbit, hfault, hparams, hhost⟩ := linesConfigured_frame s rest
  generalize s.linesConfigured rest = u at *
  have hpins := constructDone_pins ha
  exact ⟨u.constructDone, hrun, rfl, rfl, rfl, ha, hpins, by rw [hpins]; decide, chainClear_allClear u.chain,
    hlen ▸ constructDone_outputs ha, hsettle, hdelay, hdreg, hbit, hfault.trans hs.1, hparams, hhost,
    (constructDone_chain_length u).trans hlen, fun hout => (constructDone_latchStages u).trans (hlatch hout)⟩

/-! ### The outputs while CONSTRUCT runs (40_construct.md R81 (f)) -/

/-- After each of I1 to I7 OE_n is high: the invariant says so of the next position, and I7 leaves it. -/
theorem init_oeN {s : State} (hq : s.seq = .init) (h : InitInv s.stepReg.toNat s) (h0 : s.stepReg ≠ 0#3) :
    (controllerStep s).lvl.oeN = true := by
  by_cases h7 : s.stepReg = 7#3
  · obtain ⟨ha, ho, -⟩ := h
    rw [init_i7 hq h7 (ha (by simp [h7]))]
    exact ho (by simp [h7])
  · obtain ⟨hseq, hstep, -⟩ := (controllerStep_effect ((busy_iff s).2 (.inl hq))).advance h7
    obtain ⟨-, ho, -⟩ := (controllerStep_lineInv_init hq h).1 (hseq.trans hq)
    exact ho (by rw [hstep]; bv_omega)

/-- After each of I1 to I7 every device shows BLANK. -/
theorem init_outputs_blank {s : State} (hq : s.seq = .init) (h : LineInv s) (h0 : s.stepReg ≠ 0#3) :
    (controllerStep s).outputs = List.replicate s.chain.length .blank := by
  have ha : s.allOut = true := h.allOut ((busy_iff s).2 (.inl hq)) fun hi => h0 hi.2
  rw [State.outputs_allOut (controllerStep_allOut ha), init_oeN hq (h.1 hq) h0, if_pos rfl, controllerStep_chain_length]

theorem controllerStep_iterate_lineInv {s : State} (h : LineInv s) (n : Nat) : LineInv (controllerStep^[n] s) :=
  Function.Iterate.rec LineInv h (fun _ => controllerStep_lineInv) n

theorem controllerStep_iterate_chain_length (s : State) (n : Nat) :
    (controllerStep^[n] s).chain.length = s.chain.length :=
  Function.Iterate.rec (fun t : State => t.chain.length = s.chain.length) rfl
    (fun t => (controllerStep_chain_length t).trans) n

theorem linesConfigured_lineInv (s : State) (rest : List HostMove) : LineInv (s.linesConfigured rest) := by
  rw [State.linesConfigured, ← init_i0 (s := redraw (beginConstruct (s.setHost rest))) rfl rfl]
  exact controllerStep_lineInv (beginConstruct_lineInv (s.setHost rest))

/-- Settles O14: the last of the k steps is one of I1 to I7, from a state that meets the invariant of the positions. -/
theorem constructBlanksFromI1On : Obligations.ConstructBlanksFromI1On := by
  intro s w d rest hs hb hh hp hd k h3 h9
  obtain ⟨j, rfl⟩ := Nat.exists_eq_add_of_le' h3
  have hj : j < 7 := by omega
  obtain ⟨hq, hc⟩ := init_iterate_stepReg (linesConfigured_seq s rest) rfl hj
  have h0 : (controllerStep^[j] (s.linesConfigured rest)).stepReg ≠ 0#3 := by
    rw [hc]
    bv_omega
  refine ⟨_, run_construct_micro hs hb hh hp hd (n := j + 1) hj, ?_⟩
  have hinv := controllerStep_iterate_lineInv (linesConfigured_lineInv s rest) j
  rw [Function.iterate_succ_apply', init_outputs_blank hq hinv h0, controllerStep_iterate_chain_length,
    linesConfigured_chain_length]

end Sys2Proof.Machine
end

section
/-! SUPPORT. Proofs of the statements on BYTESHIFT as a whole (41_byteshift.md): where its run ends, in both latch modes
alike, and that nothing of it is visible while the outputs are disabled. -/

namespace Sys2Proof.Machine

/-! ### The end of a BYTESHIFT (41_byteshift.md R91, R92) -/

/-- Each device holds what stood one place before it, device 0 the byte sent (41_byteshift.md R92 (a)). -/
theorem byteSent_shiftStages_getElem? (s : State) {k : Nat} (hk : k < s.chain.length) :
    (shiftStages s.byteSent)[k]? = (s.dreg :: shiftStages s)[k]? := by
  rw [byteSent_shiftStages, List.getElem?_take_of_lt hk]

/-- OE_n gates the outputs as it did before (41_byteshift.md R92 (c)). -/
theorem byteSent_outputs {s : State} (ha : s.allOut = true) : s.byteSent.outputs =
    if s.lvl.oeN then List.replicate s.chain.length .blank else (latchStages s.byteSent).map .pattern := by
  rw [State.outputs_allOut (s := s.byteSent) ha, byteSent_chain_length, latchStages, List.map_map]
  rfl

/-- The lines are at rest again, but for SER, which stays at the last bit (41_byteshift.md R92 (d)). -/
theorem byteSent_pins {s : State} (hr : RestInv s) :
    s.byteSent.pins = ⟨false, s.dreg.getLsbD 7, false, true, s.lvl.oeN⟩ := by
  obtain ⟨ha, hsck, hrck, hclr⟩ := hr
  rw [State.pins_allOut (s := s.byteSent) ha]
  simp [State.byteSent, PerLine.set, hsck, hrck, hclr]

/-- Settles O22, clause by clause from the state in which the run of a BYTESHIFT ends. -/
theorem byteShiftDeliversByte : Obligations.ByteShiftDeliversByte := by
  intro s w v rest hs hq hr hh hp hd
  have hshift {k : Nat} (hk : k < s.chain.length) :
      (shiftStages (beginByteShift v (s.setHost rest)).byteSent)[k]? = (v :: shiftStages s)[k]? :=
    byteSent_shiftStages_getElem? (beginByteShift v (s.setHost rest)) hk
  refine ⟨_, run_byteShift hs hq hr hh hp hd, hshift, fun k h1 hk => ?_, byteSent_chain_length _,
    byteSent_latchStages _, byteSent_outputs hr.1, byteSent_pins hr, rfl, rfl, rfl, rfl, byteSent_sound hs, hr⟩
  obtain ⟨j, rfl⟩ := Nat.exists_eq_add_of_le' h1
  exact hshift hk

/-- Settles O27: the state in which a BYTESHIFT ends depends on the latch mode in its trace alone, since the last bit
cycle latches in both modes (`cycleChain_eight`). -/
theorem latchModesEndAlike : Obligations.LatchModesEndAlike := fun s _ _ _ m hs hq hr hh hp hd =>
  ⟨_, _, run_byteShift hs hq hr hh hp hd,
    run_byteShift (s := { s with params := { s.params with latchMode := m } }) hs hq hr hh hp hd, rfl⟩

/-! ### The outputs while a BYTESHIFT runs (41_byteshift.md R93 (e)) -/

/-- The advance of the sequencer writes no line. -/
theorem nextBit_lvl (s : State) : (nextBit s).lvl = s.lvl := by
  by_cases hb : s.bitIdx = 7#3
  · rw [nextBit_last hb, State.setSeq_lvl]
  · rw [nextBit_more hb, State.setStep_lvl, State.setBitIdx_lvl]

/-- BYTESHIFT never writes OE_n (41_byteshift.md R92 (c)). -/
theorem shiftMicroStep_oeN (m : ShiftStep) (s : State) : (shiftMicroStep m s).lvl.oeN = s.lvl.oeN := by
  cases m with
  | s1 | s2 | s3 | s4 | s5a | s6 => rfl
  | s5b =>
    rw [shiftMicroStep, State.setStep_lvl]
    split <;> rfl
  | s7 =>
    rw [shiftMicroStep, nextBit_lvl]
    rfl

/-- Of the operations CONSTRUCT alone writes OE_n. -/
theorem controllerStep_oeN {s : State} (hq : s.seq ≠ .init) : (controllerStep s).lvl.oeN = s.lvl.oeN := by
  cases hseq : s.seq with
  | init => exact absurd hseq hq
  | shift => rw [controllerStep_shift hseq, shiftMicroStep_oeN]
  | unconstructed | idle => rw [controllerStep_idle (by simp [State.busy, hseq])]

/-- The controller starts no CONSTRUCT of its own. -/
theorem controllerStep_seq_ne_init {s : State} (hq : s.seq ≠ .init) : (controllerStep s).seq ≠ .init := by
  cases hb : s.busy with
  | false => rwa [controllerStep_idle hb]
  | true =>
    rcases (controllerStep_effect hb).seq_cases with ⟨-, h⟩ | ⟨-, h⟩ <;> rw [h]
    · exact hq
    · decide

theorem controllerStep_iterate_oeN {s : State} (hq : s.seq ≠ .init) (n : Nat) :
    (controllerStep^[n] s).lvl.oeN = s.lvl.oeN := by
  induction n generalizing s with
  | zero => rfl
  | succ n ih => rw [Function.iterate_succ_apply, ih (controllerStep_seq_ne_init hq), controllerStep_oeN hq]

theorem controllerStep_iterate_allOut {s : State} (h : s.allOut = true) (n : Nat) :
    (controllerStep^[n] s).allOut = true :=
  Function.Iterate.rec (fun t : State => t.allOut = true) h (fun _ => controllerStep_allOut) n

/-- With OE_n high every device shows BLANK (20_memory.md R42). -/
theorem outputs_of_oeN_high {s : State} (ha : s.allOut = true) (ho : s.lvl.oeN = true) :
    s.outputs = List.replicate s.chain.length .blank := by
  rw [State.outputs_allOut ha, if_pos ho]

/-- No micro-step of a BYTESHIFT shows anything while OE_n is high. -/
theorem controllerStep_iterate_outputs_blank {s : State} (hq : s.seq ≠ .init) (ha : s.allOut = true)
    (ho : s.lvl.oeN = true) (n : Nat) :
    (controllerStep^[n] s).outputs = List.replicate s.chain.length .blank := by
  rw [outputs_of_oeN_high (controllerStep_iterate_allOut ha n) ((controllerStep_iterate_oeN hq n).trans ho),
    controllerStep_iterate_chain_length]

/-- Settles O29: the acceptance writes no line, and each of the micro-steps after it leaves OE_n high. -/
theorem disabledByteStaysHidden : Obligations.DisabledByteStaysHidden := by
  intro s w v rest k hs hq hr ho hh hp hd hk
  cases k with
  | zero => exact ⟨s, rfl, outputs_of_oeN_high hr.1 ho⟩
  | succ n =>
    exact ⟨_, run_byteShift_micro hs hq hr hh hp hd (Nat.le_of_succ_le_succ hk),
      controllerStep_iterate_outputs_blank (s := beginByteShift v (s.setHost rest)) nofun hr.1 ho n⟩

end Sys2Proof.Machine
end

section
/-! SUPPORT. Proofs of the statements on the two gating commands (42_output_gating.md): the words that name one, and what
a write to OE_n does to the outputs and to a level that is already there. -/

namespace Sys2Proof

open Laws

/-- `op` alone says which command a word is: the data field of a command may hold any byte (30_encoding.md R61). -/
theorem opField_eq_iff_exists_decode {o : BitVec 2} {c : Byte → Instr}
    (hc : ∀ d, OpcodeRow.op (c d) = o ∧ OpcodeRow.data (c d) = d) (w : CmdWord) :
    opField w = o ↔ ∃ d, decode w = c d := by
  simp only [decode_eq_iff_fields, hc]
  exact ⟨fun h => ⟨dataField w, h, rfl⟩, fun ⟨_, h, _⟩ => h⟩

end Sys2Proof

namespace Sys2Proof.Machine

/-! ### A write to OE_n (42_output_gating.md R100, R101) -/

/-- The level written to OE_n gates the outputs: BLANK, or the latch stages as they were (20_memory.md R42). -/
theorem lineWrite_oeN_outputs {s : State} (ha : s.allOut = true) (v : Level) : (lineWrite .oeN v s).outputs =
    if v then List.replicate s.chain.length .blank else (latchStages s).map .pattern := by
  have hlvl : (lineWrite .oeN v s).lvl.oeN = v := rfl
  rw [State.outputs_allOut (s := lineWrite .oeN v s) ha, hlvl, lineWrite_chain_length, ← lineWrite_oeN_latchStages v s,
    latchStages, List.map_map]
  rfl

/-- With the lines at rest, a write of the level that OE_n already has only adds its event (20_memory.md R48). -/
theorem lineWrite_oeN_same {s : State} (hr : RestInv s) {v : Level} (hv : s.lvl.oeN = v) :
    lineWrite .oeN v s = { s with trace := (lineWrite .oeN v s).trace } := by
  obtain ⟨ha, -, -, h1⟩ := hr
  exact lineWrite_rewrite ha hv fun h0 => absurd (h1.symm.trans h0) (by decide)

/-! ### The gating commands, told by the level `v` that they write -/

section
variable {i : Instr} {v : Level} {s : State}

theorem exec_gating_idle (hi : idleEffect i = lineWrite .oeN v) (hq : s.seq = .idle) :
    ∃ t, exec i s = .next t ∧ t.seq = .idle ∧ t.busy = false ∧ t.fault = s.fault ∧ t.lvl = s.lvl.set .oeN v := by
  refine ⟨lineWrite .oeN v s, hi ▸ exec_of_idle i hq, hq, ?_, rfl, rfl⟩
  exact (busy_false_iff _).2 (.inr hq)

theorem exec_gating_atRest (hi : idleEffect i = lineWrite .oeN v) (hq : s.seq = .idle) (hr : RestInv s) :
    ∃ t, exec i s = .next t ∧
      t = { s with lvl := { s.lvl with oeN := v }, trace := s.trace ++ [.write .oeN v] } ∧
      t.outputs = (if v then List.replicate s.chain.length .blank else (latchStages s).map .pattern) ∧
      (s.lvl.oeN = v → t = { s with trace := t.trace }) :=
  ⟨lineWrite .oeN v s, hi ▸ exec_of_idle i hq, lineWrite_oeN_of_restInv hr v, lineWrite_oeN_outputs hr.1 v,
    lineWrite_oeN_same hr⟩

end

/-- Settles O31: ENABLE_OUTPUT writes OE_n low. -/
theorem enableOutputShowsLatches : Obligations.EnableOutputShowsLatches :=
  ⟨opField_eq_iff_exists_decode fun _ => ⟨rfl, rfl⟩, rfl, fun _ _ => ⟨exec_gating_idle rfl, exec_gating_atRest rfl,
    exec_of_busy _, fun hq => exec_of_unconstructed hq nofun⟩⟩

/-- Settles O32: DISABLE_OUTPUT writes OE_n high. -/
theorem disableOutputBlanks : Obligations.DisableOutputBlanks :=
  ⟨opField_eq_iff_exists_decode fun _ => ⟨rfl, rfl⟩, rfl, fun _ _ => ⟨exec_gating_idle rfl, exec_gating_atRest rfl,
    exec_of_busy _, fun hq => exec_of_unconstructed hq nofun⟩⟩

end Sys2Proof.Machine
end

section
/-! SUPPORT. Proofs of the statements on faults and waits (60_exceptions.md): what a raise records and how it ends its run,
what raises each fault, the return of power, and that an operation in progress ends. -/

namespace Sys2Proof.Machine

/-! ### The raise of a fault (60_exceptions.md R111, R117) -/

/-- A fault raised while none is recorded is the one recorded. -/
theorem raise_of_fault_none {s : State} (hf : s.fault = none) (f : Fault) :
    raise f s = .next { s with fault := some f } := by
  rw [raise_eq, hf, Option.getD_none]

/-- The step of a sound state whose move raises: the move is used up and the fault is recorded. -/
theorem step_of_raise {s : State} {f : Fault} {rest : List HostMove} (hs : Sound s) (hk : keepsPower s = true)
    (hm : hostOrController s = raise f (s.setHost rest)) :
    step s = .next (redraw { s with host := rest, fault := some f }) := by
  rw [step_sound hk hs, hm, raise_of_fault_none (s := s.setHost rest) hs.1]
  rfl

/-- Settles O18: a raise keeps a fault that is already recorded, and a recorded fault is all that the next step answers. -/
theorem raiseRecordsAndStops : Obligations.RaiseRecordsAndStops :=
  ⟨fun f s => ⟨_, raise_eq f s, rfl, fun hf => by rw [hf, Option.getD_none], fun g hg => by rw [hg, Option.getD_some]⟩,
    fun _ _ n hf hk => run_succ_fault (step_faulted hk hf) n, rfl, rfl, rfl, rfl⟩

/-! ### Commands that fault (60_exceptions.md R112, R113) -/

/-- Settles O16: both checks of a command ask for BUSY first, and a recorded fault is all that the next step answers. -/
theorem commandWhileBusyFaults : Obligations.CommandWhileBusyFaults := by
  refine ⟨fun i s hb => exec_of_busy i hb, fun s w rest hs hb hh => ⟨_, ?_, rfl, fun hk => step_faulted hk rfl⟩⟩
  refine step_of_raise hs (by simp [keepsPower, hh]) ?_
  simp only [hostOrController, hh, exec_of_busy (s := s.setHost rest) (decode w) hb]

/-- Settles O17: before CONSTRUCT the check of SEQ raises, and while CONSTRUCT runs the check of BUSY does. -/
theorem useBeforeConstructFaults : Obligations.UseBeforeConstructFaults := by
  intro i s hi hf
  refine ⟨fun hq => ⟨_, ?_, rfl, fun hk => step_faulted hk rfl⟩, fun hq => ⟨_, ?_, rfl, fun hk => step_faulted hk rfl⟩⟩
  · rw [exec_of_unconstructed hq hi, raise_of_fault_none hf]
  · rw [exec_of_busy i ((busy_iff s).2 (.inl hq)), raise_of_fault_none hf]

/-! ### Foreign agents and the line binding (60_exceptions.md R114) -/

/-- Two lines on one physical pin, or a line on a pin that is taken or cannot be an output, break the premises. -/
theorem bindingOk_eq_false {p : Params} (hbroken : (∃ l m : Line, l ≠ m ∧ p.physicalPin l = p.physicalPin m) ∨
    (∃ l : Line, ∃ h : Nat, (h ∈ p.taken ∨ h ∈ p.notOutputs) ∧ p.physicalPin l = Config.pinOf h)) :
    p.bindingOk = false := by
  refine Bool.eq_false_iff.2 fun hok => ?_
  obtain ⟨hdistinct, hunused⟩ := (Params.bindingOk_iff p).1 hok
  rcases hbroken with ⟨l, m, hne, hpin⟩ | ⟨l, h, hmem, hpin⟩
  · exact hne (hdistinct l m hpin)
  · obtain ⟨htaken, hnotOutput⟩ := hunused l h hpin
    exact hmem.elim htaken hnotOutput

/-- Settles O19: the two foreign moves raise at their step, and a broken premise raises at the check before the move. -/
theorem bindingPremisesFault : Obligations.BindingPremisesFault := by
  refine ⟨fun s l v rest hs hh => ?_, fun s l rest hs hh => ?_, fun s hf hk hbroken => ?_⟩
  · exact step_of_raise hs (by simp [keepsPower, hh]) (by simp only [hostOrController, hh])
  · exact step_of_raise hs (by simp [keepsPower, hh]) (by simp only [hostOrController, hh])
  · rw [step_unbound hk hf (bindingOk_eq_false hbroken), hf, Option.getD_none]

/-! ### The return of power (60_exceptions.md R117) -/

/-- Settles O6: a return of power is the move of its step in every state, and the redraw after it writes no register. -/
theorem powerCycleStartsNewRun : Obligations.PowerCycleStartsNewRun := fun s rest hh =>
  ⟨_, step_powerCycle hh, ⟨rfl, rfl, rfl⟩, rfl, rfl, rfl, rfl, rfl, rfl, (powerOn_keeps_params (s.setHost rest)).2⟩

/-! ### Waits, and the end of an operation (60_exceptions.md R122) -/

/-- Settles O55: I6 is the wait of CONSTRUCT, and S2, S4 and S6 are the waits of BYTESHIFT. -/
theorem waitsOnlyRecord : Obligations.WaitsOnlyRecord := by
  refine fun s => ⟨init_i6, fun hq hc => ?_⟩
  rcases hc with hc | hc | hc <;> rw [hc]
  exacts [shift_s2 hq hc, shift_s4 hq hc, shift_s6 hq hc]

/-! The micro-steps left of an operation, by SEQ. -/

theorem remaining_init {s : State} (hq : s.seq = .init) : remaining s = 8 - s.stepReg.toNat := by
  rw [remaining, hq]

theorem remaining_shift {s : State} (hq : s.seq = .shift) :
    remaining s = 64 - (8 * s.bitIdx.toNat + s.stepReg.toNat) := by
  rw [remaining, hq]

theorem remaining_of_not_busy {s : State} (hb : s.busy = false) : remaining s = 0 := by
  rcases (busy_false_iff s).1 hb with hq | hq <;> rw [remaining, hq]

/-- An operation is in progress exactly while a micro-step of it is left. -/
theorem busy_iff_remaining_pos (s : State) : s.busy = true ↔ 0 < remaining s := by
  cases hb : s.busy with
  | false => simp [remaining_of_not_busy hb]
  | true =>
    have hc := s.stepReg.isLt
    have hi := s.bitIdx.isLt
    refine iff_of_true rfl ?_
    rcases (busy_iff s).1 hb with hq | hq
    · rw [remaining_init hq]
      omega
    · rw [remaining_shift hq]
      omega

/-- Each micro-step is one of those that were left. -/
theorem MicroEffect.remaining_eq {s u : State} (h : MicroEffect s u) (hb : s.busy = true) :
    remaining u + 1 = remaining s := by
  by_cases h7 : s.stepReg = 7#3
  · cases h with
    | config hq hc => exact absurd (hc.symm.trans h7) (by decide)
    | write l v hc => exact absurd h7 hc.1
    | wait n hc => exact absurd h7 hc.1
    | pass hc => exact absurd h7 hc.1
    | constructEnds hq hc =>
      rw [remaining_init hq, hc]
      rfl
    | nextBit hq hc hi =>
      rw [remaining_shift hq, remaining_shift (s := ((lineWrite .rck false s).setBitIdx _).setStep 0#3) hq, hc]
      show 64 - (8 * (s.bitIdx + 1#3).toNat + 0) + 1 = 64 - (8 * s.bitIdx.toNat + 7)
      bv_omega
    | byteShiftEnds hq hc hi =>
      rw [remaining_shift hq, hc, hi]
      rfl
  · obtain ⟨hseq, hstep, hbit⟩ := h.advance h7
    rcases (busy_iff s).1 hb with hq | hq
    · rw [remaining_init hq, remaining_init (hseq.trans hq), hstep]
      bv_omega
    · rw [remaining_shift hq, remaining_shift (hseq.trans hq), hstep, hbit]
      bv_omega

/-- A run of k of the micro-steps left takes no move of the host and leaves the rest of them. -/
theorem run_operation {s : State} (hs : Sound s) (hp : patient s.host = true) (hq : s.seq ≠ .unconstructed) {k : Nat}
    (hk : k ≤ remaining s) : ∃ u, Host.Core.run Sys2Proof.core k s = .next u ∧ remaining u + k = remaining s ∧
      u.seq ≠ .unconstructed ∧ u.host = s.host := by
  induction k generalizing s with
  | zero => exact ⟨s, rfl, rfl, hq, rfl⟩
  | succ k ih =>
    have hb : s.busy = true := (busy_iff_remaining_pos s).2 (by omega)
    have heff := controllerStep_effect hb
    have hrem : remaining (redraw (controllerStep s)) + 1 = remaining s := heff.remaining_eq hb
    have hq' : (redraw (controllerStep s)).seq ≠ .unconstructed := by
      rcases heff.seq_cases with ⟨-, h⟩ | ⟨-, h⟩ <;> simp [h, hq]
    obtain ⟨u, hrun, hleft, hqu, hhost⟩ :=
      ih (redraw_sound (controllerStep_sound hs)) (by simpa using hp) hq' (by omega)
    exact ⟨u, (run_busy hs hp hb k).trans hrun, by omega, hqu, by simpa using hhost⟩

/-- Settles O30: each step takes one of the micro-steps left, and BUSY falls when none is. -/
theorem operationsAlwaysEnd : Obligations.OperationsAlwaysEnd := by
  intro s hs hb hp
  have hq : s.seq ≠ .unconstructed := fun h => absurd hb (by simp [State.busy, h])
  refine ⟨fun k hk => ?_, ?_⟩
  · obtain ⟨u, hrun, hleft, -, -⟩ := run_operation hs hp hq hk.le
    exact ⟨u, hrun, (busy_iff_remaining_pos u).2 (by omega)⟩
  · obtain ⟨t, hrun, hleft, hqt, hhost⟩ := run_operation hs hp hq le_rfl
    have hend : t.busy = false := Bool.eq_false_iff.2 fun h => absurd ((busy_iff_remaining_pos t).1 h) (by omega)
    exact ⟨t, hrun, ((busy_false_iff t).1 hend).resolve_left hqt, hhost⟩

end Sys2Proof.Machine
end

section
/-! SUPPORT. Proofs of the statements on power-on and on the duration of a BYTESHIFT (70_reset_and_hazards.md): the
rising edges and the events of its bit cycles, which do not depend on the byte but for the level of SER. -/

namespace Sys2Proof.Machine

/-! ### Rising edges of a trace (20_memory.md R38) -/

/-- The rising edges of a trace go on from the levels that the first part of it leaves. -/
theorem countRises_append (l : Line) (p : PerLine Level) (a b : List Event) :
    countRises l p (a ++ b) = countRises l p a + countRises l (levelsAfter p a) b := by
  induction a generalizing p with
  | nil => exact (Nat.zero_add _).symm
  | cons e a ih => cases e <;> simp only [List.cons_append, countRises, levelsAfter, ih, Nat.add_assoc]

section
variable (m : LatchMode) (delay : Ticks) (v : Byte) {p : PerLine Level}

theorem countRises_sck_bitListing (i : Nat) (hs : p.sck = false) :
    countRises .sck p (bitListing m delay v i) = 1 := by
  unfold bitListing latchListing
  split <;> simp [countRises, PerLine.get, PerLine.set, hs]

theorem countRises_rck_bitListing (i : Nat) (hr : p.rck = false) :
    countRises .rck p (bitListing m delay v i) = if m = .perBit ∨ i = 7 then 1 else 0 := by
  unfold bitListing latchListing
  split <;> simp [countRises, PerLine.get, PerLine.set, hr]

/-- Each bit cycle leaves the clocks low, so the rising edges add up over the bit cycles. -/
theorem countRises_cycles (l : Line) (f : Nat → Nat)
    (hf : ∀ i (q : PerLine Level), q.sck = false → q.rck = false → countRises l q (bitListing m delay v i) = f i)
    (hs : p.sck = false) (hr : p.rck = false) (n : Nat) :
    countRises l p ((List.range n).flatMap (bitListing m delay v)) = ((List.range n).map f).sum := by
  induction n with
  | zero => rfl
  | succ n ih =>
    have hcycle : countRises l (p.set .ser (lastSent p.ser v n)) (bitListing m delay v n) = f n := hf n _ hs hr
    rw [List.range_succ, List.flatMap_append, List.flatMap_singleton, countRises_append, ih,
      levelsAfter_cycles m delay v hs hr, hcycle, List.map_append, List.sum_append, List.map_singleton,
      List.sum_singleton]

theorem countRises_sck_byteListing (hs : p.sck = false) (hr : p.rck = false) :
    countRises .sck p (byteListing m delay v) = 8 :=
  countRises_cycles m delay v .sck (fun _ => 1) (fun i _ hs _ => countRises_sck_bitListing m delay v i hs) hs hr 8

theorem countRises_rck_byteListing (hs : p.sck = false) (hr : p.rck = false) :
    countRises .rck p (byteListing m delay v) = if m = .perBit then 8 else 1 := by
  rw [byteListing, countRises_cycles m delay v .rck _ (fun i _ _ hr => countRises_rck_bitListing m delay v i hr) hs hr]
  cases m <;> rfl

/-! ### The events of a BYTESHIFT but for the level of SER (70_reset_and_hazards.md R152) -/

theorem bitListing_map_eraseSer (u : Byte) (i : Nat) :
    (bitListing m delay v i).map eraseSer = (bitListing m delay u i).map eraseSer := by
  simp [bitListing, eraseSer]

theorem byteListing_map_eraseSer (u : Byte) :
    (byteListing m delay v).map eraseSer = (byteListing m delay u).map eraseSer := by
  simp only [byteListing, List.map_flatMap, bitListing_map_eraseSer m delay v u]

end

/-- Settles O26: the run of a BYTESHIFT is busy for its 64 micro-steps and records its listing, whose counts and whose
events but for the level of SER are those of any byte. -/
theorem byteShiftIsDataIndependent : Obligations.ByteShiftIsDataIndependent := by
  intro s w v rest hs hq hr hh hp hd
  have ⟨_, hsck, hrck, _⟩ := hr
  refine ⟨fun k h1 hk => ?_, _, byteListing s.params.latchMode s.cfgDelay v, run_byteShift hs hq hr hh hp hd, rfl,
    rfl, countWaits_byteListing .., totalTicks_byteListing .., countRises_sck_byteListing _ _ _ hsck hrck,
    countRises_rck_byteListing _ _ _ hsck hrck, byteListing_map_eraseSer ..⟩
  obtain ⟨n, rfl⟩ := Nat.exists_eq_add_of_le' h1
  exact ⟨_, run_byteShift_micro hs hq hr hh hp hd (by omega),
    controllerStep_iterate_busy rfl rfl (beginByteShift_shiftInv v rest hr) rfl hk⟩

/-- Settles O5: the reset state holds these values (10_state.md R24), and SEQ decides the flags. -/
theorem resetIsPoweredOn : Obligations.ResetIsPoweredOn := ⟨⟨rfl, rfl, rfl⟩, rfl, rfl⟩

end Sys2Proof.Machine
end

section
/-! SUPPORT. The decoder on the numbers of spec/opcode_table.json (30_encoding.md R61). -/

namespace Sys2Proof

/-- A field of at least ten bits holds a command word whole, so the word of a command decodes to it. -/
theorem decodeTableWord_encode {nbits : Nat} (h : 10 ≤ nbits) (i : Instr) :
    decodeTableWord nbits (encode i).toNat = some i := by
  have hfits : (encode i).toNat % 2 ^ nbits = (encode i).toNat :=
    Nat.mod_eq_of_lt ((encode i).isLt.trans_le (Nat.pow_le_pow_right (by decide) h))
  have hword : decodeWord (encode i).toNat = .ok i := (decodeInvertsEncode.1 _ i).2 rfl
  rw [decodeTableWord, hfits, hword]

/-- Settles O4: each of the six numbers is the word of its command. -/
theorem sampleWordsDecode : Obligations.SampleWordsDecode :=
  have hread := decodeTableWord_encode (nbits := 16) (by decide)
  ⟨hread (.construct 0x00), hread (.construct 0xFF), hread (.byteShift 0x00), hread (.byteShift 0xFC),
    hread (.enableOutput 0xAB), hread (.disableOutput 0xFF)⟩

end Sys2Proof
end
